-- ==== Sys2Proof/Word.lean ====
section
/-! DEFINITION. The word types of the block and the fixed-size tables its records stand in. -/

namespace Sys2Proof

/-- A byte. -/
abbrev Byte := BitVec 8

/-- A 32-bit word (R205); also a 32-bit byte address (00_scope.md, section 7). -/
abbrev Word := BitVec 32

/-- A table of `n` like records: 16 masters, 8 rings, 64 cells, 32 window entries. -/
abbrev Tbl (α : Type) (n : Nat) := Vector α n

namespace Tbl

variable {α β : Type} {n : Nat}

/-- The record numbered `i`. -/
def nth (t : Tbl α n) (i : Fin n) : α := t[i]

/-- The table with record `i` replaced. -/
def put (t : Tbl α n) (i : Fin n) (x : α) : Tbl α n := t.set i x

/-- The table that holds `x` everywhere. -/
def all (n : Nat) (x : α) : Tbl α n := Vector.replicate n x

/-- Every record changed by `f`. -/
def mapAll (f : α → β) (t : Tbl α n) : Tbl β n := ⟨⟨t.toList.map f⟩, by simp⟩

/-- The table whose record `i` is `f i`. -/
def tabulate (f : Fin n → α) : Tbl α n := ⟨⟨(List.finRange n).map f⟩, by simp⟩

/-- A table from a list of exactly `n` records. -/
def ofList? (n : Nat) (l : List α) : Option (Tbl α n) :=
  if h : l.length = n then some ⟨⟨l⟩, h⟩ else none

end Tbl

end Sys2Proof
end

