-- ==== Sys2Proof/Config.lean ====
section
/-! DEFINITION. The fixed numbers of the part, and the one free value. -/

namespace Sys2Proof.Config

/-- The format value of a table image (R2). -/
abbrev formatValue : Word := 0x31200001

/-- Park entries of the hold pool (R56). -/
abbrev poolEntries : Nat := 8

/-- Places of the pending notice queue (R157). -/
abbrev noticePlaces : Nat := 8

/-- Reads of a table load, of 64 bytes each (R175). -/
abbrev tableReads : Nat := 13

/-- Ticks of the time base in one millisecond step (R94). -/
abbrev ticksPerMillisecond : Nat := 1000

/-- The first byte of a POLL frame (R208). -/
abbrev pollCode : Byte := 0x80

/-- A FREE VALUE: what stands where the spec states no value (DESIGN CHOICE: log 18 for the absent items of the views, log 36 for what
an unbound ring has not, log 38 for the data of a late response). The first number is the count of free values used (`State.free`),
the second tells the items of one use apart. It has no body: nothing is known of it. -/
opaque absentItem : Nat → Nat → Word

end Sys2Proof.Config
end

