-- ==== Sys2Proof/Syntax.lean ====
section
/-! DEFINITION. The commands of the block: one constructor of `Instr` for each row of the opcode table.

Most rows are events: a block of the part takes a request, a response, a tick or a hand-off from another block.
The operands say which waiting thing is taken, or what a link carries. -/

namespace Sys2Proof

/-- Master 0 to 15; master 0 is the part itself and never appears legitimately upstream (00_scope.md, section 7). -/
abbrev MasterNo := Fin 16
/-- Ring 0 to 7 (R24). -/
abbrev RingNo := Fin 8
/-- Claim cell 0 to 63 (R80). -/
abbrev CellNo := Fin 64
/-- Window 0 to 31 (R1). -/
abbrev WindowNo := Fin 32
/-- Park entry 0 to 7 (R56). -/
abbrev EntryNo := Fin 8

/-- The direction of a request (R116). -/
inductive Dir where
  | read
  | write
  deriving DecidableEq, Repr

/-- The two directions of a ring: its producer access path and its consumer access path (R28, R56). -/
inductive Side where
  | producer
  | consumer
  deriving DecidableEq, Repr

/-- An upstream request as the link carries it, but for its master number (R116). `data` is empty for a READ. -/
structure Request where
  priv : Bool
  fetch : Bool
  dir : Dir
  addr : Word
  len : Nat
  data : List Byte
  deriving DecidableEq, Repr

/-- Who handed a piece of work to the downstream port (R135). -/
inductive Source where
  | master (m : MasterNo)
  | noticeWriter
  | tableLoader
  deriving DecidableEq, Repr

/-- The levels of the nine strap inputs (R172). -/
structure Straps where
  loadOnReset : Bool
  tablePage : Byte
  deriving DecidableEq, Repr

/-- A window entry as its four words of the image layout (R206); the entry a WRITE_WINDOW carries. -/
abbrev WindowWords := Tbl Word 4

/-- A ring record as its eight words of the image layout (R206). -/
abbrev RingWords := Tbl Word 8

/-- The commands and events of the part, in the order of the opcode table. -/
inductive Instr where
  -- upstream port and window matcher
  | upstreamRequest (m : MasterNo) (rq : Request)
  | admission (m : MasterNo)
  | replay (m : MasterNo)
  -- downstream port
  | queueJoin (src : Source)
  | downstreamDone (tag : BitVec 4) (data : List Byte)
  | downstreamRetry (tag : BitVec 4)
  | downstreamFault (tag : BitVec 4)
  | responseTimeout
  | settlingEnd
  -- results taken by their owners
  | passResult (m : MasterNo)
  | ringProducerDone (r : RingNo)
  | ringConsumerDone (r : RingNo)
  | ringAccessFailed (r : RingNo) (side : Side)
  | noticeWriteResult
  -- cadence monitor
  | cadenceCommit (r : RingNo)
  | watchExpiry (r : RingNo)
  -- time
  | tick
  | ringParkExpiry (e : EntryNo)
  | claimParkExpiry (e : EntryNo)
  | millisecondStep
  | leaseExpiry (c : CellNo)
  -- notices and the table loader
  | noticeHandoff (i : Nat)
  | tableReadResult
  -- work that follows another step
  | runEntryRings
  | runEntryNotices
  | stopRings
  | stopPool
  | stopCells
  | stopCadence (r : RingNo)
  | cadenceRingStart (r : RingNo)
  | poolCancelRingStop (r : RingNo)
  | poolCancelFreeze (r : RingNo)
  | dropOwnerships (m : MasterNo) (c : CellNo)
  | headerCopy
  -- the reset line
  | resetNAssert
  | resetNRelease (straps : Straps)
  -- the management link
  | commandFrameMalformed (code : Byte) (args : List Byte)
  /-- POLL, with `n` bytes clocked after its code byte (R192); none where it does not say. -/
  | poll (n : Nat := 0)
  | status
  | readHeader
  | writeHeader (w : Tbl Word 14)
  | readWindow (w : Byte)
  | writeWindow (w : Byte) (entry : WindowWords)
  | readRing (r : Byte)
  | writeRing (r : Byte) (rec : RingWords)
  | ringStart (r : Byte)
  | ringStop (r : Byte)
  | readCell (c : Byte)
  | freeCell (c : Byte)
  | readMaster (m : Byte)
  | setPriority (m : Byte) (p : Byte)
  | dropMaster (m : Byte)
  | reopenMaster (m : Byte)
  | readPool
  | takeNotice
  | setMask (mask : Byte)
  | clearStall
  | clearLost
  | stop
  | start
  | load (addr : Word)
  | reset (straps : Straps)
  deriving DecidableEq, Repr

end Sys2Proof
end

