-- ==== Sys2Proof/Decode.lean ====
section
/-! DEFINITION. The layouts that turn bytes into words and management frames into commands.

No row of the opcode table gives bits, so `decodeTableWord` answers none. The management frames do have a byte
layout (R188, R205, R208, R209): `decodeFrame` reads a frame, `encodeFrame` writes one. -/

namespace Sys2Proof

/-- The four bytes of a word, least significant first (R205). -/
def wordBytes (w : Word) : List Byte :=
  [w.extractLsb' 0 8, w.extractLsb' 8 8, w.extractLsb' 16 8, w.extractLsb' 24 8]

/-- The word of four bytes, least significant first (R205). -/
def wordOf (b0 b1 b2 b3 : Byte) : Word := b3 ++ b2 ++ b1 ++ b0

/-- The words of a byte string, four bytes each (R205); a rest of fewer than four bytes makes no word. -/
def wordsOf : List Byte → List Word
  | b0 :: b1 :: b2 :: b3 :: rest => wordOf b0 b1 b2 b3 :: wordsOf rest
  | _ => []

/-- The bytes of a list of words, in order (R205). -/
def bytesOf (ws : List Word) : List Byte := ws.flatMap wordBytes

/-- The command code of each management command (R208); none for the rows that are no command of the link. -/
def commandCode : Instr → Option Byte
  | .status => some 0x01
  | .readHeader => some 0x02
  | .writeHeader _ => some 0x03
  | .readWindow _ => some 0x04
  | .writeWindow _ _ => some 0x05
  | .readRing _ => some 0x06
  | .writeRing _ _ => some 0x07
  | .ringStart _ => some 0x08
  | .ringStop _ => some 0x09
  | .readCell _ => some 0x0A
  | .freeCell _ => some 0x0B
  | .readMaster _ => some 0x0C
  | .setPriority _ _ => some 0x0D
  | .dropMaster _ => some 0x0E
  | .reopenMaster _ => some 0x0F
  | .readPool => some 0x10
  | .takeNotice => some 0x11
  | .setMask _ => some 0x12
  | .clearStall => some 0x13
  | .clearLost => some 0x14
  | .stop => some 0x15
  | .start => some 0x16
  | .load _ => some 0x17
  | .reset _ => some 0x18
  | .upstreamRequest _ _ => none
  | .admission _ => none
  | .replay _ => none
  | .queueJoin _ => none
  | .downstreamDone _ _ => none
  | .downstreamRetry _ => none
  | .downstreamFault _ => none
  | .responseTimeout => none
  | .settlingEnd => none
  | .passResult _ => none
  | .ringProducerDone _ => none
  | .ringConsumerDone _ => none
  | .ringAccessFailed _ _ => none
  | .noticeWriteResult => none
  | .cadenceCommit _ => none
  | .watchExpiry _ => none
  | .tick => none
  | .ringParkExpiry _ => none
  | .claimParkExpiry _ => none
  | .millisecondStep => none
  | .leaseExpiry _ => none
  | .noticeHandoff _ => none
  | .tableReadResult => none
  | .runEntryRings => none
  | .runEntryNotices => none
  | .stopRings => none
  | .stopPool => none
  | .stopCells => none
  | .stopCadence _ => none
  | .cadenceRingStart _ => none
  | .poolCancelRingStop _ => none
  | .poolCancelFreeze _ => none
  | .dropOwnerships _ _ => none
  | .headerCopy => none
  | .resetNAssert => none
  | .resetNRelease _ => none
  | .commandFrameMalformed _ _ => none
  | .poll _ => none

/-- The number of argument bytes each command code takes (R208); none for a code that names no command. -/
def argCount (code : Byte) : Option Nat :=
  match code.toNat with
  | 0x01 => some 0
  | 0x02 => some 0
  | 0x03 => some 56
  | 0x04 => some 1
  | 0x05 => some 17
  | 0x06 => some 1
  | 0x07 => some 33
  | 0x08 => some 1
  | 0x09 => some 1
  | 0x0A => some 1
  | 0x0B => some 1
  | 0x0C => some 1
  | 0x0D => some 2
  | 0x0E => some 1
  | 0x0F => some 1
  | 0x10 => some 0
  | 0x11 => some 0
  | 0x12 => some 1
  | 0x13 => some 0
  | 0x14 => some 0
  | 0x15 => some 0
  | 0x16 => some 0
  | 0x17 => some 4
  | 0x18 => some 0
  | _ => none

/-- Whether a command frame of this code and these argument bytes is malformed (R188, R209). A frame whose first
byte is 0x80 is a POLL frame and no command frame. -/
def frameMalformed (code : Byte) (args : List Byte) : Bool :=
  code != Config.pollCode && argCount code != some args.length

/-- A command of no argument. -/
def frame0 (i : Instr) : List Byte → Option Instr
  | [] => some i
  | _ => none

/-- A command whose one argument is a single number (R209). -/
def frame1 (f : Byte → Instr) : List Byte → Option Instr
  | [b] => some (f b)
  | _ => none

/-- A command whose arguments are two numbers. -/
def frame2 (f : Byte → Byte → Instr) : List Byte → Option Instr
  | [b, c] => some (f b c)
  | _ => none

/-- A command whose arguments are `n` words. -/
def frameWords (n : Nat) (f : Tbl Word n → Instr) (args : List Byte) : Option Instr :=
  if args.length = 4 * n then (Tbl.ofList? n (wordsOf args)).map f else none

/-- A command whose arguments are a number and `n` words. -/
def frameByteWords (n : Nat) (f : Byte → Tbl Word n → Instr) : List Byte → Option Instr
  | b :: args => frameWords n (f b) args
  | [] => none

/-- The command of a well-formed command frame (R208, R209). The strap levels are RESET's (log 9). -/
def wellFormedFrame (straps : Straps) (code : Byte) (args : List Byte) : Option Instr :=
  match code.toNat with
  | 0x01 => frame0 .status args
  | 0x02 => frame0 .readHeader args
  | 0x03 => frameWords 14 .writeHeader args
  | 0x04 => frame1 .readWindow args
  | 0x05 => frameByteWords 4 .writeWindow args
  | 0x06 => frame1 .readRing args
  | 0x07 => frameByteWords 8 .writeRing args
  | 0x08 => frame1 .ringStart args
  | 0x09 => frame1 .ringStop args
  | 0x0A => frame1 .readCell args
  | 0x0B => frame1 .freeCell args
  | 0x0C => frame1 .readMaster args
  | 0x0D => frame2 .setPriority args
  | 0x0E => frame1 .dropMaster args
  | 0x0F => frame1 .reopenMaster args
  | 0x10 => frame0 .readPool args
  | 0x11 => frame0 .takeNotice args
  | 0x12 => frame1 .setMask args
  | 0x13 => frame0 .clearStall args
  | 0x14 => frame0 .clearLost args
  | 0x15 => frame0 .stop args
  | 0x16 => frame0 .start args
  | 0x17 => frameWords 1 (fun w => .load (w.nth 0)) args
  | 0x18 => frame0 (.reset straps) args
  | _ => none

/-- The command a frame's whole bytes spell (R188): none when no whole byte came in; POLL as soon as its code byte is complete, its further
bytes being those in which the record is shifted out (R192, log 29); otherwise a command, malformed or not. -/
def decodeFrame (straps : Straps) : List Byte → Option Instr
  | [] => none
  | code :: args =>
    if code = Config.pollCode then some (.poll args.length)
    else
      match wellFormedFrame straps code args with
      | some i => some i
      | none => some (.commandFrameMalformed code args)

/-- The argument bytes of a command frame (R208). -/
def frameArgs : Instr → List Byte
  | .writeHeader w => bytesOf w.toList
  | .readWindow w => [w]
  | .writeWindow w e => w :: bytesOf e.toList
  | .readRing r => [r]
  | .writeRing r rec => r :: bytesOf rec.toList
  | .ringStart r => [r]
  | .ringStop r => [r]
  | .readCell c => [c]
  | .freeCell c => [c]
  | .readMaster m => [m]
  | .setPriority m p => [m, p]
  | .dropMaster m => [m]
  | .reopenMaster m => [m]
  | .setMask b => [b]
  | .load a => bytesOf [a]
  | _ => []

/-- The frame of a management command, of POLL, or of a malformed frame (R208); none for the other rows. -/
def encodeFrame : Instr → Option (List Byte)
  | .poll n => some (Config.pollCode :: List.replicate n 0)
  | .commandFrameMalformed code args => some (code :: args)
  | i => (commandCode i).map (· :: frameArgs i)

/-- One byte from its eight bits, most significant first as it is clocked (R205). -/
def byteOfBits (b7 b6 b5 b4 b3 b2 b1 b0 : Bool) : Byte :=
  BitVec.ofBool b7 ++ BitVec.ofBool b6 ++ BitVec.ofBool b5 ++ BitVec.ofBool b4 ++
    BitVec.ofBool b3 ++ BitVec.ofBool b2 ++ BitVec.ofBool b1 ++ BitVec.ofBool b0

/-- The whole bytes of the bits clocked in on MDI; the bits of an incomplete last byte are discarded (R188). -/
def bytesOfBits : List Bool → List Byte
  | b7 :: b6 :: b5 :: b4 :: b3 :: b2 :: b1 :: b0 :: rest =>
    byteOfBits b7 b6 b5 b4 b3 b2 b1 b0 :: bytesOfBits rest
  | _ => []

/-- The bits of a byte as they are clocked, most significant first (R205). -/
def bitsOfByte (b : Byte) : List Bool :=
  [b.getLsbD 7, b.getLsbD 6, b.getLsbD 5, b.getLsbD 4, b.getLsbD 3, b.getLsbD 2, b.getLsbD 1, b.getLsbD 0]

/-- The command that the bits of one SPI transaction spell (R188, R205). -/
def decodeTransaction (straps : Straps) (bits : List Bool) : Option Instr :=
  decodeFrame straps (bytesOfBits bits)

/-- The command that a table word spells: none, since no row of the table gives bits. -/
def decodeTableWord (nbits w : Nat) : Option Instr :=
  match nbits, w with
  | _, _ => none

end Sys2Proof
end

