-- ==== Sys2Proof/Machine/State.lean ====
section
/-! DEFINITION. The state of the part, block by block, as plain data, and the state after a hard reset. -/

namespace Sys2Proof.Machine

/-! ### The part as a whole -/

/-- The part state (R170). -/
inductive PartState where
  | reset
  | loading
  | running
  | halted
  deriving DecidableEq, Repr

/-- The reset cause (R173). -/
inductive ResetCause where
  | line
  | command
  deriving DecidableEq, Repr

/-! ### The window matcher -/

/-- The default policy for addresses in no window (R2). -/
inductive Policy where
  | closed
  | open
  deriving DecidableEq, Repr

/-- The live header (R2). Slot 0 of `prios` is not used. -/
structure Header where
  format : Word
  balance : Word
  policy : Policy
  noticeRing : Option RingNo
  alertLevel : BitVec 16
  mask : BitVec 7
  internalPrio : BitVec 2
  retryBudget : BitVec 3
  respLimit : BitVec 16
  prios : Tbl (BitVec 2) 16
  deriving DecidableEq, Repr

/-- The kind of a window (R5, R6). -/
inductive Kind where
  | pass
  | ring
  | claim
  | block
  deriving DecidableEq, Repr

/-! ### The ring tracker -/

/-- The overrun policy (R24). -/
inductive Overrun where
  | hold
  | refuse
  | overwrite
  deriving DecidableEq, Repr

/-- The underrun policy (R24). -/
inductive Underrun where
  | hold
  | refuse
  | fill
  deriving DecidableEq, Repr

/-- The stray policy (R24). -/
inductive StrayPolicy where
  | fault
  | freeze
  deriving DecidableEq, Repr

/-- A ring's configuration (R24). -/
structure RingConfig where
  slotSize : Nat
  slotCount : Nat
  overrun : Overrun
  underrun : Underrun
  stray : StrayPolicy
  holdLimit : BitVec 16
  fillWord : Word
  target : BitVec 16
  tolerance : BitVec 16
  confirm : Nat
  startAtRun : Bool
  deriving DecidableEq, Repr

/-- The unconfigured ring: every field zero (R25). -/
def RingConfig.unconfigured : RingConfig :=
  { slotSize := 0, slotCount := 0, overrun := .hold, underrun := .hold, stray := .fault, holdLimit := 0,
    fillWord := 0, target := 0, tolerance := 0, confirm := 0, startAtRun := false }

/-- The state of a ring (R29). -/
inductive RingState where
  | off
  | running
  | frozen
  deriving DecidableEq, Repr

/-- The condition of a lane, with what is held with it (R28). -/
inductive Lane where
  | free
  | reserved (m : MasterNo)
  | busy (m : MasterNo) (detached : Bool)
  deriving DecidableEq, Repr

/-- A ring record: configuration, state, cursors, fill, lanes and counters (R24, R26). -/
structure Ring where
  cfg : RingConfig
  state : RingState
  wi : Nat
  wo : Nat
  ri : Nat
  ro : Nat
  fill : Nat
  producer : Lane
  consumer : Lane
  commits : Word
  releases : Word
  drops : Word
  fills : Word
  strays : Word
  deriving DecidableEq, Repr

/-- A ring after hard or soft reset (R55). -/
def Ring.reset : Ring :=
  { cfg := RingConfig.unconfigured, state := .off, wi := 0, wo := 0, ri := 0, ro := 0, fill := 0,
    producer := .free, consumer := .free, commits := 0, releases := 0, drops := 0, fills := 0, strays := 0 }

/-! ### The cadence monitor -/

/-- The cadence class of a ring (R103). -/
inductive CadClass where
  | unknown
  | slow
  | on
  | fast
  deriving DecidableEq, Repr

/-- The cadence state of a ring (R103). A watch timer of 0 has run out and its expiry is due (log 7). -/
structure Cadence where
  cls : CadClass
  candidate : Option CadClass
  run : Nat
  elapsed : Option (BitVec 16)
  last : Option (BitVec 16)
  watch : Option (BitVec 17)
  deriving DecidableEq, Repr

/-- The cadence state after a reset, a start of the ring or a successful load (R114). -/
def Cadence.initial : Cadence :=
  { cls := .unknown, candidate := none, run := 0, elapsed := none, last := none, watch := none }

/-- A commit signal that RT has given and CM has not yet taken (R106). -/
structure CommitSignal where
  ring : RingNo
  master : MasterNo
  addr : Word
  deriving DecidableEq, Repr

/-! ### The hold pool -/

/-- What a parked request waits for (R56). -/
inductive Target where
  | ring (r : RingNo) (side : Side)
  | cell (c : CellNo)
  deriving DecidableEq, Repr

/-- Why a request was parked (R56). -/
inductive Cause where
  | full
  | empty
  | lane
  | claim
  deriving DecidableEq, Repr

/-- An occupied park entry (R56). `order` is the model's own count of first parkings (R58: comparisons go by position
whatever the sequence numbers hold; log 11). A remaining time of 0 has run out and its expiry is due (log 7). -/
structure ParkEntry where
  slot : EntryNo
  master : MasterNo
  rq : Request
  window : WindowNo
  target : Target
  cause : Cause
  seq : Word
  order : Nat
  remaining : Option (BitVec 16)
  deriving DecidableEq, Repr

/-- The hold pool: the pool list and the arrival sequence counter (R57, R58). -/
structure HoldPool where
  list : List ParkEntry
  arrival : Word
  order : Nat
  deriving DecidableEq, Repr

/-! ### The claim unit -/

/-- A claim cell record (R80). A lease of 0 has run out and its expiry is due (log 7). -/
structure Cell where
  owner : Option MasterNo
  gen : BitVec 8
  lease : Option (BitVec 16)
  lapsed : Option MasterNo
  deriving DecidableEq, Repr

/-- A cell after hard reset, soft reset and STOP (R102). -/
def Cell.reset : Cell := { owner := none, gen := 0, lease := none, lapsed := none }

/-- The lease divider (R94) and the millisecond steps it has given that are not yet taken (log 23). -/
structure LeaseClock where
  divider : Nat
  msDue : Nat
  deriving DecidableEq, Repr

/-! ### The master table -/

/-- OPEN or FENCED (R124). -/
inductive MasterState where
  | opened
  | fenced
  deriving DecidableEq, Repr

/-- The outstanding phases (R121). -/
inductive Phase where
  | none
  | admitting
  | parked
  | queued
  | inFlight
  | laneHeld
  deriving DecidableEq, Repr

/-- What HP hands over with a woken ring request besides the request itself (R66). -/
structure Woken where
  ring : RingNo
  side : Side
  window : WindowNo
  seq : Word
  order : Nat
  remaining : Option (BitVec 16)
  deriving DecidableEq, Repr

/-- A master's outstanding request: its phase and the request record UP keeps (R117, R120, R121). -/
inductive Outstanding where
  | none
  | admitting (rq : Request)
  | queued (rq : Request)
  | inFlight (rq : Request)
  | parked (rq : Request)
  | laneHeld (rq : Request) (woken : Woken)
  deriving DecidableEq, Repr

/-- A master record (R120). -/
structure Master where
  prio : BitVec 2
  state : MasterState
  outst : Outstanding
  deriving DecidableEq, Repr

/-- A master record after hard or soft reset (R131). -/
def Master.reset : Master := { prio := 0, state := .opened, outst := .none }

/-! ### The downstream port -/

/-- The purpose of a piece of downstream work (R135). The window is the one the request was admitted under; it serves
the notice of a failure (R14, R52; log 15). A notice write names the ring it is issued to (R22). -/
inductive Purpose where
  | pass (window : Option WindowNo)
  | ring (r : RingNo) (side : Side) (window : WindowNo)
  | notice (r : RingNo)
  | table
  deriving DecidableEq, Repr

/-- An entry of the issue queue (R135). -/
structure QueueEntry where
  source : Source
  purpose : Purpose
  dir : Dir
  addr : Word
  len : Nat
  data : List Byte
  deriving DecidableEq, Repr

/-- The in-flight record (R134, R138). A timer of 0 has run out and its expiry is due (log 7). -/
structure InFlight where
  entry : QueueEntry
  tag : BitVec 4
  retries : BitVec 3
  timer : BitVec 16
  deriving DecidableEq, Repr

/-- The link state with the record it holds (R134). -/
inductive Link where
  | idle
  | issued (rec : InFlight)
  | settling (tag : BitVec 4) (remaining : BitVec 16)
  deriving DecidableEq, Repr

/-- The downstream port (R134). -/
structure Downstream where
  queue : List QueueEntry
  link : Link
  tag : BitVec 4
  deriving DecidableEq, Repr

/-- How a downstream request ended (R140, R142, R143). -/
inductive Ending where
  | done (data : List Byte)
  | fault
  | timeout
  deriving DecidableEq, Repr

/-- A downstream result on its way to its owner (R144, R145). -/
structure DownResult where
  entry : QueueEntry
  ending : Ending
  deriving DecidableEq, Repr

/-- The result of a notice write on its way to NW (R145). `detached` is what RT found when it took the completion, if it
has taken it (log 16). -/
structure NoticeResult where
  ring : RingNo
  ending : Ending
  detached : Option Bool
  deriving DecidableEq, Repr

/-! ### Notices -/

/-- The notice kinds (R152). -/
inductive NoticeKind where
  | fault
  | drop
  | frozen
  | cadence
  | lease
  | forcedFree
  | fence
  deriving DecidableEq, Repr

/-- The FAULT reasons, in the order of their codes (R205). -/
inductive Reason where
  | notReady
  | badMaster
  | fenced
  | noWindow
  | cls
  | blocked
  | access
  | ringOff
  | ringFrozen
  | stray
  | full
  | empty
  | poolFull
  | holdExpired
  | claimShape
  | notOwner
  | lateRelease
  | downFault
  | downTimeout
  | dropped
  | stopped
  | reset
  deriving DecidableEq, Repr

/-- Which ring or cell a notice names (R152). -/
inductive Subject where
  | none
  | ring (r : RingNo)
  | cell (c : CellNo)
  deriving DecidableEq, Repr

/-- The kind-specific contents of a notice (R153). -/
inductive Detail where
  | none
  | drop (partialRead : Bool)
  | cadence (old new : CadClass) (interval : BitVec 16) (watch : Bool)
  | generation (g : BitVec 8)
  | fence (phase : Phase) (cells : Nat)
  deriving DecidableEq, Repr

/-- A notice as the giving block hands it to NW (R152, R153). -/
structure Notice where
  kind : NoticeKind
  master : MasterNo
  window : Option WindowNo
  subject : Subject
  reason : Option Reason
  addr : Option Word
  detail : Detail
  deriving DecidableEq, Repr

/-- A notice record (R152). -/
structure NoticeRecord where
  notice : Notice
  seq : BitVec 16
  stamp : Word
  lost : BitVec 16
  deriving DecidableEq, Repr

/-- The writer's state, with the record in flight (R159). -/
inductive Writer where
  | idle
  | writing (rec : NoticeRecord)
  | stalled
  deriving DecidableEq, Repr

/-- The notice writer (R155 to R159). -/
structure NoticeWriter where
  mask : BitVec 7
  queue : List NoticeRecord
  writer : Writer
  seq : BitVec 16
  lost : BitVec 16
  deriving DecidableEq, Repr

/-- The notice writer after hard and soft reset (R169). -/
def NoticeWriter.reset : NoticeWriter := { mask := 0x7F, queue := [], writer := .idle, seq := 0, lost := 0 }

/-! ### The table loader -/

/-- The load status codes (R174). -/
inductive LoadCode where
  | none
  | ok
  | readFault
  | badFormat
  | badBalance
  | badHeader
  | badWindow
  | overlap
  | badRing
  | badCells
  deriving DecidableEq, Repr

/-- The origin of a load (R175). -/
inductive Origin where
  | reset
  | command
  deriving DecidableEq, Repr

/-- The load in progress with its staging copy (R174). -/
structure Load where
  origin : Origin
  addr : Word
  reads : Nat
  staging : List Byte
  deriving DecidableEq, Repr

/-- The table loader (R174). -/
structure Loader where
  valid : Bool
  code : LoadCode
  index : Option (Fin 32)
  load : Option Load
  deriving DecidableEq, Repr

/-- The table loader after hard and soft reset (R174). -/
def Loader.reset : Loader := { valid := false, code := .none, index := none, load := none }

/-! ### The management link -/

/-- The status codes of a response (R194). -/
inductive Status where
  | ok
  | pending
  | busy
  | badArg
  | badState
  | conflict
  deriving DecidableEq, Repr

/-- A response record that is not empty (R187). `code` is the command code answered, or the received code of a malformed
frame (R208). -/
structure Response where
  code : Byte
  frame : Byte
  status : Status
  refusal : Bool
  data : List Byte
  deriving DecidableEq, Repr

/-- The long commands (R190). -/
inductive LongCommand where
  | load
  | reset
  deriving DecidableEq, Repr

/-- The pending command with its frame number (R187). -/
structure PendingCommand where
  command : LongCommand
  frame : Byte
  deriving DecidableEq, Repr

/-- The management link (R187). -/
structure MgmtLink where
  response : Option Response
  long : Option PendingCommand
  frame : Byte
  deriving DecidableEq, Repr

/-- The management link after hard reset (R202). -/
def MgmtLink.reset : MgmtLink := { response := none, long := none, frame := 1 }

/-! ### Hand-offs between the blocks -/

/-- What one block has told another and that block has not yet taken (R118, R136, R140, R145, R153, R183, R184, R195;
log 5). The Bool fields hold whether an event of their kind waits: two that wait together are taken as one (DESIGN CHOICE, log 41). -/
structure HandOffs where
  joins : List QueueEntry
  results : List DownResult
  nwResult : Option NoticeResult
  notices : List Notice
  commits : List CommitSignal
  drops : List (MasterNo × CellNo)
  runRings : Bool
  runNotices : Bool
  stopRings : Bool
  stopPool : Bool
  stopCells : Bool
  headerCopy : Bool
  cadStop : Tbl Bool 8
  cadStart : Tbl Bool 8
  cancelStop : Tbl Bool 8
  cancelFreeze : Tbl Bool 8
  deriving DecidableEq, Repr

/-- No hand-off waits. -/
def HandOffs.reset : HandOffs :=
  { joins := [], results := [], nwResult := none, notices := [], commits := [], drops := [],
    runRings := false, runNotices := false, stopRings := false, stopPool := false, stopCells := false,
    headerCopy := false, cadStop := Tbl.all 8 false, cadStart := Tbl.all 8 false,
    cancelStop := Tbl.all 8 false, cancelFreeze := Tbl.all 8 false }

/-! ### The output pins -/

/-- An upstream answer (R116, R119). The link carries no reason with a FAULT; the model keeps it (log 10). -/
inductive Answer where
  | done (data : List Byte)
  | fault (reason : Reason)
  deriving DecidableEq, Repr

/-- What the part drives on its links (R119, R138, R192). -/
inductive Output where
  | answer (m : MasterNo) (a : Answer)
  | present (tag : BitVec 4) (dir : Dir) (addr : Word) (len : Nat) (data : List Byte)
  | mdo (bytes : List Byte)
  deriving DecidableEq, Repr

/-! ### The whole part -/

/-- The state of the part. `out` is what the last step drove on the links. `free` counts the free values that have been used, the
model's own field (log 18). `strapPins` holds the levels on the nine strap inputs (log 9), `straps` the sampled ones. `pending` is the queue of commands that wait, first in, first out. -/
structure State where
  part : PartState
  resetAsserted : Bool
  cause : ResetCause
  strapPins : Straps
  straps : Straps
  timestamp : Word
  header : Header
  windows : Tbl WindowWords 32
  rings : Tbl Ring 8
  cadence : Tbl Cadence 8
  hp : HoldPool
  cells : Tbl Cell 64
  cu : LeaseClock
  masters : Tbl Master 16
  dn : Downstream
  nw : NoticeWriter
  tl : Loader
  ml : MgmtLink
  hand : HandOffs
  out : List Output
  free : Nat
  pending : List Instr
  deriving DecidableEq, Repr

/-- The reset contents of the header (R23). -/
def Header.reset : Header :=
  { format := 0x31200001, balance := 0, policy := .closed, noticeRing := none, alertLevel := 1, mask := 0x7F,
    internalPrio := 0, retryBudget := 0, respLimit := 65535, prios := Tbl.all 16 0 }

/-- The part while RESET_N is asserted: every block at its values after hard reset (R171). The reset cause, the sampled straps and
the levels on the strap inputs before the first release are DESIGN CHOICE (log 2, unsafe). -/
def State.reset : State :=
  { part := .reset, resetAsserted := true, cause := .line,
    strapPins := { loadOnReset := false, tablePage := 0 }, straps := { loadOnReset := false, tablePage := 0 }, timestamp := 0,
    header := Header.reset, windows := Tbl.all 32 (Tbl.all 4 0),
    rings := Tbl.all 8 Ring.reset, cadence := Tbl.all 8 Cadence.initial,
    hp := { list := [], arrival := 0, order := 0 }, cells := Tbl.all 64 Cell.reset,
    cu := { divider := 0, msDue := 0 }, masters := Tbl.all 16 Master.reset,
    dn := { queue := [], link := .idle, tag := 0 }, nw := NoticeWriter.reset, tl := Loader.reset,
    ml := MgmtLink.reset, hand := HandOffs.reset, out := [], free := 0, pending := [] }

/-! ### Why a step stops -/

/-- Why the machine stops. Each reason is an operand that the part's links cannot carry, so nothing the spec describes
is shut out (log 4). -/
inductive Fault where
  /-- UPSTREAM_REQUEST raises it: the upstream link has no encoding for a request of this shape (R116). Safe: the part
  receives no such request. -/
  | noSuchRequest
  /-- COMMAND_FRAME_MALFORMED raises it: the frame is well formed, so it is another row's (R188, R209). Safe: the frame
  reaches the part as that row. -/
  | frameWellFormed
  deriving DecidableEq, Repr

/-- Why a command has no meaning. -/
inductive Refusal where
  /-- Raised by an arm of `exec` for a command that is not modelled. Safe: nothing is claimed of it. No arm raises it. -/
  | notModelled (mnemonic : String)
  deriving DecidableEq, Repr

end Sys2Proof.Machine
end

