-- ==== Sys2Proof/Machine/Operands.lean ====
section
/-! DEFINITION. The layouts of Section 12: window entries, header, ring record, notice record, claim reply word and
response record, and the codes of the named values. -/

namespace Sys2Proof.Machine

/-! ### Small helpers -/

/-- A count as a byte. -/
def byteOf (n : Nat) : Byte := BitVec.ofNat 8 n

/-- A flag as a byte: 1 when set, 0 when clear; no rule gives the code of a flag that fills a byte of a view (DEDUCED, log 42). -/
def flagByte (b : Bool) : Byte := if b then 1 else 0

/-- A byte field whose number may be none: 0xFF for none (R205). -/
def numByte {n : Nat} : Option (Fin n) → Byte
  | none => 0xFF
  | some i => byteOf i.val

/-- A master field whose master may be NONE: 0 for NONE (R205). -/
def masterByte : Option MasterNo → Byte
  | none => 0
  | some m => byteOf m.val

/-- What an event that is taken before a due expiry finds in the timer: the value before the tick that ran it out (log 7). -/
def held {n : Nat} (t : BitVec n) : BitVec n := if t = 0 then 1 else t

/-- A timer that may be absent: bits 16:0 hold it, bit 31 is set when it is present (R205). What bits 16:0 hold when it is absent is
not stated: they are those of `hole`, a free value (log 18). -/
def timerWord {n : Nat} (hole : Word) : Option (BitVec n) → Word
  | none => (hole.extractLsb' 0 17).zeroExtend 32
  | some t => t.zeroExtend 32 ||| 0x80000000

/-! ### Window entries (R5, R206) -/

def winValid (w : WindowWords) : Bool := (w.nth 1).getLsbD 25

def winKind (w : WindowWords) : Kind :=
  match ((w.nth 1).extractLsb' 26 2).toNat with
  | 0 => .pass
  | 1 => .ring
  | 2 => .claim
  | _ => .block

/-- The base: word 0 with bits 5:0 taken as 0. -/
def winBase (w : WindowWords) : Word := w.nth 0 &&& 0xFFFFFFC0

/-- The size in bytes. -/
def winSize (w : WindowWords) : Nat := ((w.nth 1).extractLsb' 0 25).toNat * 64

/-- Bits 5:0 of word 0: the ring number of a RING entry, the first cell of a CLAIM entry. -/
def winLow (w : WindowWords) : Nat := ((w.nth 0).extractLsb' 0 6).toNat

/-- The ring a RING entry names. -/
def winRing (w : WindowWords) : RingNo := Fin.ofNat 8 (winLow w)

def winPriv (w : WindowWords) : Bool := (w.nth 1).getLsbD 28

def winFetch (w : WindowWords) : Bool := (w.nth 1).getLsbD 29

/-- The claim wait mode: set for WAIT. -/
def winWait (w : WindowWords) : Bool := (w.nth 1).getLsbD 30

def winReads (w : WindowWords) (m : MasterNo) : Bool := (w.nth 2).getLsbD m.val

def winWrites (w : WindowWords) (m : MasterNo) : Bool := (w.nth 2).getLsbD (16 + m.val)

def winWriteSetEmpty (w : WindowWords) : Bool := (w.nth 2).extractLsb' 16 16 == 0

def winWaitLimit (w : WindowWords) : BitVec 16 := (w.nth 3).extractLsb' 0 16

def winLease (w : WindowWords) : BitVec 16 := (w.nth 3).extractLsb' 16 16

/-- The cells a CLAIM entry covers: one per 4-byte word (R81). -/
def winCells (w : WindowWords) : Nat := winSize w / 4

/-- Whether the entry's range holds the address (R5, R11). -/
def winHolds (w : WindowWords) (a : Word) : Bool :=
  decide ((winBase w).toNat ≤ a.toNat) && decide (a.toNat < (winBase w).toNat + winSize w)

/-- Whether a valid entry is a RING entry that names ring `r`. -/
def winNamesRing (w : WindowWords) (r : RingNo) : Bool :=
  winValid w && winKind w == .ring && winRing w == r

/-- Whether a valid entry is a CLAIM entry whose range covers cell `c`. -/
def winHasCell (w : WindowWords) (c : CellNo) : Bool :=
  winValid w && winKind w == .claim && decide (winLow w ≤ c.val) && decide (c.val < winLow w + winCells w)

/-- The address of a cell's word behind a CLAIM entry that covers it (R81). -/
def winCellAddr (w : WindowWords) (c : CellNo) : Word :=
  winBase w + BitVec.ofNat 32 (4 * (c.val - winLow w))

/-- The well-formedness of a valid entry, the positions that must hold 0 among it (R9, R205, R206). An invalid entry is
well formed whatever it holds. -/
def winWellFormed (w : WindowWords) : Bool :=
  !winValid w ||
    (decide (64 ≤ winSize w) && decide (winSize w ≤ 2 ^ 30) &&
      decide ((winBase w).toNat + winSize w ≤ 2 ^ 32) &&
      !(w.nth 1).getLsbD 31 && !(w.nth 2).getLsbD 0 && !(w.nth 2).getLsbD 16 &&
      match winKind w with
      | .pass => winLow w == 0 && !winWait w && w.nth 3 == 0
      | .block => winLow w == 0 && !winWait w && w.nth 3 == 0
      | .ring => decide (winLow w < 8) && !winWait w && w.nth 3 == 0
      | .claim => decide (winSize w ≤ 256) && decide (winLow w + winCells w ≤ 64))

/-- Whether two valid entries share an address (R10). -/
def winOverlap (v w : WindowWords) : Bool :=
  winValid v && winValid w &&
    decide ((winBase v).toNat < (winBase w).toNat + winSize w) &&
    decide ((winBase w).toNat < (winBase v).toNat + winSize v)

/-- Whether two valid CLAIM entries have overlapping cell ranges (R10). -/
def winCellsOverlap (v w : WindowWords) : Bool :=
  winValid v && winValid w && winKind v == .claim && winKind w == .claim &&
    decide (winLow v < winLow w + winCells w) && decide (winLow w < winLow v + winCells v)

/-- Whether two valid RING entries name one ring (R10). -/
def winSameRing (v w : WindowWords) : Bool :=
  winValid v && winValid w && winKind v == .ring && winKind w == .ring && winRing v == winRing w

/-! ### The header (R2, R206) -/

/-- The header of words w2 to w15 with a format value and a balance word; none when a field is out of range or a
position that must hold 0 does not (R205). -/
def decodeHeader (format balance : Word) (w : Tbl Word 14) : Option Header :=
  let w2 := w.nth 0
  let w3 := w.nth 1
  let w4 := w.nth 2
  let w5 := w.nth 3
  let ring := (w2.extractLsb' 8 8).toNat
  let level := w2.extractLsb' 16 16
  if (w2.extractLsb' 0 8).toNat ≤ 1 ∧ (ring ≤ 7 ∨ ring = 0xFF) ∧ 1 ≤ level.toNat ∧ level.toNat ≤ 1024 ∧
      w3.getLsbD 7 = false ∧ (w3.extractLsb' 8 8).toNat ≤ 3 ∧ (w3.extractLsb' 16 8).toNat ≤ 7 ∧
      w3.extractLsb' 24 8 = 0 ∧
      w4.extractLsb' 0 16 ≠ 0 ∧ w4.extractLsb' 16 16 = 0 ∧ w5.extractLsb' 30 2 = 0 ∧
      (w.toList.drop 4).all (· == 0) = true then
    some
      { format := format, balance := balance,
        policy := if w2.getLsbD 0 then .open else .closed,
        noticeRing := if ring ≤ 7 then some (Fin.ofNat 8 ring) else none,
        alertLevel := level, mask := w3.extractLsb' 0 7, internalPrio := w3.extractLsb' 8 2,
        retryBudget := w3.extractLsb' 16 3, respLimit := w4.extractLsb' 0 16,
        prios := Tbl.tabulate fun m => if m.val = 0 then 0 else w5.extractLsb' (2 * m.val - 2) 2 }
  else none

/-- The word of the 15 master priorities (R206, w5). -/
def priosWord (p : Tbl (BitVec 2) 16) : Word :=
  (List.finRange 16).foldl
    (fun acc m => if m.val = 0 then acc else acc ||| ((p.nth m).zeroExtend 32 <<< (2 * m.val - 2))) 0

/-- The header in its layout (R206). -/
def encodeHeader (h : Header) : List Word :=
  [ h.format, h.balance,
    wordOf (match h.policy with | .closed => 0 | .open => 1) (numByte h.noticeRing)
      (h.alertLevel.extractLsb' 0 8) (h.alertLevel.extractLsb' 8 8),
    wordOf (h.mask.zeroExtend 8) (h.internalPrio.zeroExtend 8) (h.retryBudget.zeroExtend 8) 0,
    h.respLimit.zeroExtend 32, priosWord h.prios ] ++ List.replicate 10 0

/-! ### Ring records (R24, R25, R206) -/

/-- A configuration that is well formed (R25). -/
def ringWellFormed (c : RingConfig) : Bool :=
  (c.slotSize == 64 || c.slotSize == 128 || c.slotSize == 256 || c.slotSize == 512 || c.slotSize == 1024) &&
    decide (2 ≤ c.slotCount) && decide (c.slotCount ≤ 1024) && decide (1 ≤ c.confirm) && decide (c.confirm ≤ 4) &&
    (if c.target = 0 then c.tolerance == 0 else decide (c.tolerance.toNat < c.target.toNat))

/-- The overrun policy of a code (R206). -/
def overrunOf : Nat → Overrun
  | 0 => .hold
  | 1 => .refuse
  | _ => .overwrite

/-- The underrun policy of a code (R206). -/
def underrunOf : Nat → Underrun
  | 0 => .hold
  | 1 => .refuse
  | _ => .fill

/-- The codes of a ring record's words name a value, and the positions that must hold 0 do (R205, R206). -/
def ringCodesHold (w : RingWords) : Bool :=
  decide (1 ≤ ((w.nth 0).extractLsb' 0 3).toNat) && decide (((w.nth 0).extractLsb' 0 3).toNat ≤ 5) &&
    (w.nth 0).extractLsb' 3 13 == 0 && (w.nth 0).extractLsb' 27 5 == 0 &&
    decide (((w.nth 1).extractLsb' 0 2).toNat ≤ 2) && decide (((w.nth 1).extractLsb' 2 2).toNat ≤ 2) &&
    (w.nth 1).extractLsb' 6 2 == 0 && (w.nth 1).extractLsb' 11 21 == 0 && (w.nth 2).extractLsb' 16 16 == 0 &&
    w.nth 5 == 0 && w.nth 6 == 0 && w.nth 7 == 0

/-- The configuration in a ring record's words (R206). -/
def ringFields (w : RingWords) : RingConfig :=
  { slotSize := 64 * 2 ^ (((w.nth 0).extractLsb' 0 3).toNat - 1), slotCount := ((w.nth 0).extractLsb' 16 11).toNat,
    overrun := overrunOf ((w.nth 1).extractLsb' 0 2).toNat, underrun := underrunOf ((w.nth 1).extractLsb' 2 2).toNat,
    stray := if (w.nth 1).getLsbD 4 then .freeze else .fault,
    holdLimit := (w.nth 2).extractLsb' 0 16, fillWord := w.nth 3,
    target := (w.nth 4).extractLsb' 0 16, tolerance := (w.nth 4).extractLsb' 16 16,
    confirm := ((w.nth 1).extractLsb' 8 3).toNat, startAtRun := (w.nth 1).getLsbD 5 }

/-- The well-formed configuration of a ring record's words; none when a field is out of range, a position that must hold 0
does not, or the cadence fields break their condition (R25, R205). An all-zero record is not well formed. -/
def decodeRingConfig (w : RingWords) : Option RingConfig :=
  if ringCodesHold w && ringWellFormed (ringFields w) then some (ringFields w) else none

/-- A ring record of a table image: unconfigured when all eight words are 0, otherwise it must be well formed (R25, R206). -/
def decodeImageRing (w : RingWords) : Option RingConfig :=
  if w.toList.all (· == 0) then some RingConfig.unconfigured else decodeRingConfig w

/-- The code of a slot size: 0 for the unconfigured ring (R206). -/
def slotCode (size : Nat) : Nat :=
  match size with
  | 64 => 1
  | 128 => 2
  | 256 => 3
  | 512 => 4
  | 1024 => 5
  | _ => 0

def overrunCode : Overrun → Nat
  | .hold => 0
  | .refuse => 1
  | .overwrite => 2

def underrunCode : Underrun → Nat
  | .hold => 0
  | .refuse => 1
  | .fill => 2

def strayCode : StrayPolicy → Nat
  | .fault => 0
  | .freeze => 1

/-- A ring record in its layout (R206). -/
def encodeRing (c : RingConfig) : List Word :=
  [ BitVec.ofNat 32 (slotCode c.slotSize + 2 ^ 16 * c.slotCount),
    BitVec.ofNat 32 (overrunCode c.overrun + 4 * underrunCode c.underrun + 16 * strayCode c.stray +
      (if c.startAtRun then 32 else 0) + 256 * c.confirm),
    c.holdLimit.zeroExtend 32, c.fillWord, c.tolerance ++ c.target, 0, 0, 0 ]

/-! ### Codes of the named values (R205) -/

def partCode : PartState → Byte
  | .reset => 0
  | .loading => 1
  | .running => 2
  | .halted => 3

def ringStateCode : RingState → Byte
  | .off => 0
  | .running => 1
  | .frozen => 2

def masterStateCode : MasterState → Byte
  | .opened => 0
  | .fenced => 1

def phaseCode : Phase → Byte
  | .none => 0
  | .admitting => 1
  | .parked => 2
  | .queued => 3
  | .inFlight => 4
  | .laneHeld => 5

def causeCode : Cause → Nat
  | .full => 0
  | .empty => 1
  | .lane => 2
  | .claim => 3

def classCode : CadClass → Byte
  | .unknown => 0
  | .slow => 1
  | .on => 2
  | .fast => 3

def kindCode : NoticeKind → Nat
  | .fault => 1
  | .drop => 2
  | .frozen => 3
  | .cadence => 4
  | .lease => 5
  | .forcedFree => 6
  | .fence => 7

def reasonCode : Reason → Byte
  | .notReady => 1
  | .badMaster => 2
  | .fenced => 3
  | .noWindow => 4
  | .cls => 5
  | .blocked => 6
  | .access => 7
  | .ringOff => 8
  | .ringFrozen => 9
  | .stray => 10
  | .full => 11
  | .empty => 12
  | .poolFull => 13
  | .holdExpired => 14
  | .claimShape => 15
  | .notOwner => 16
  | .lateRelease => 17
  | .downFault => 18
  | .downTimeout => 19
  | .dropped => 20
  | .stopped => 21
  | .reset => 22

def loadCodeByte : LoadCode → Byte
  | .none => 0
  | .ok => 1
  | .readFault => 2
  | .badFormat => 3
  | .badBalance => 4
  | .badHeader => 5
  | .badWindow => 6
  | .overlap => 7
  | .badRing => 8
  | .badCells => 9

def statusCode : Status → Byte
  | .ok => 0
  | .pending => 1
  | .busy => 2
  | .badArg => 3
  | .badState => 4
  | .conflict => 5

def writerCode : Writer → Byte
  | .idle => 0
  | .writing _ => 1
  | .stalled => 2

def resetCauseCode : ResetCause → Byte
  | .line => 0
  | .command => 1

def originCode : Origin → Byte
  | .reset => 1
  | .command => 2

def dirCode : Dir → Byte
  | .read => 0
  | .write => 1

def sideCode : Side → Byte
  | .producer => 0
  | .consumer => 1

/-- A lane as condition, master and detached mark, one byte each (R205, R208). A lane that is not BUSY has its mark clear (R28, R49,
R55). -/
def laneWord : Lane → Word
  | .free => wordOf 0 0 0 0
  | .reserved m => wordOf 1 (byteOf m.val) 0 0
  | .busy m d => wordOf 2 (byteOf m.val) (flagByte d) 0

/-! ### The notice record and the claim reply word (R207) -/

/-- The number and selector bytes of a notice's ring or cell. -/
def subjectBytes : Subject → Byte × Byte
  | .none => (0xFF, 0)
  | .ring r => (byteOf r.val, 1)
  | .cell c => (byteOf c.val, 2)

/-- Words w5 and w6 of a notice record. -/
def detailWords : Detail → Word × Word
  | .none => (0, 0)
  | .drop p => (if p then 1 else 0, 0)
  | .cadence old new interval watch =>
    (wordOf (classCode old) (classCode new) (flagByte watch) 0, interval.zeroExtend 32)
  | .generation g => (g.zeroExtend 32, 0)
  | .fence phase cells => (wordOf (phaseCode phase) (byteOf cells) 0 0, 0)

/-- The 16 words of a notice record (R207). -/
def recordWords (r : NoticeRecord) : List Word :=
  let n := r.notice
  let sub := subjectBytes n.subject
  let det := detailWords n.detail
  [ r.seq ++ ((match n.reason with | none => (0 : Byte) | some x => reasonCode x) ++ byteOf (kindCode n.kind)),
    r.stamp,
    wordOf (byteOf n.master.val) (numByte n.window) sub.1 sub.2,
    (match n.addr with | none => 0 | some a => a),
    r.lost ++ (if n.addr.isSome then (1 : BitVec 16) else 0),
    det.1, det.2 ] ++ List.replicate 9 0

/-- The 64 bytes of a notice record. -/
def recordBytes (r : NoticeRecord) : List Byte := bytesOf (recordWords r)

/-- The claim reply word of a read that is not granted (R82, R207). -/
def replyWord (owner : Option MasterNo) (gen : BitVec 8) (waited : Bool) : Word :=
  wordOf (masterByte owner) gen 0 (if waited then 0x80 else 0)

/-- The data of a FILL answer: the fill word in each of the read's words (R40, R205). -/
def fillData (word : Word) (len : Nat) : List Byte := bytesOf (List.replicate (len / 4) word)

/-! ### The response record (R208) -/

/-- The bytes of a response record: an empty record is command NONE, frame 0, status OK, no mark, no data (R187, R208). -/
def responseBytes : Option Response → List Byte
  | none => [0, 0, 0, 0, 0, 0]
  | some r =>
    [ r.code, r.frame, statusCode r.status, flagByte r.refusal,
      byteOf (r.data.length % 256), byteOf (r.data.length / 256) ] ++ r.data

/-- What MDO carries in a POLL frame that clocks `n` bytes after its code byte: the record as far as it is shifted out, and 0 after its
last byte (R192, R208). -/
def pollBytes (r : Option Response) (n : Nat) : List Byte := (responseBytes r ++ List.replicate n 0).take n

end Sys2Proof.Machine
end

