-- ==== Sys2Proof/Machine/Ops.lean ====
section
/-! DEFINITION. The operations the commands share: records and answers, the downstream port, the hold pool, the ring
tracker's wakes, the notice writer's evaluation and the end of an ownership. None of them reads or writes `pending`. -/

namespace Sys2Proof.Machine

/-! ### Reading and replacing one record -/

/-- The record of ring `r`. -/
def State.ring (s : State) (r : RingNo) : Ring := s.rings.nth r

/-- The cadence state of ring `r`. -/
def State.cad (s : State) (r : RingNo) : Cadence := s.cadence.nth r

/-- The record of cell `c`. -/
def State.cell (s : State) (c : CellNo) : Cell := s.cells.nth c

/-- The record of master `m`; slot 0 is UP's request record for master number 0 (R117; log 22). -/
def State.master (s : State) (m : MasterNo) : Master := s.masters.nth m

/-- Window entry `w`. -/
def State.window (s : State) (w : WindowNo) : WindowWords := s.windows.nth w

def State.setRing (s : State) (r : RingNo) (k : Ring) : State := { s with rings := s.rings.put r k }

def State.setCad (s : State) (r : RingNo) (k : Cadence) : State := { s with cadence := s.cadence.put r k }

/-- Ring `r`'s watch timer becomes absent and the rest of its cadence state is kept (R113, R114). -/
def State.stopWatch (s : State) (r : RingNo) : State := s.setCad r { s.cad r with watch := none }

def State.setCell (s : State) (c : CellNo) (k : Cell) : State := { s with cells := s.cells.put c k }

def State.setMaster (s : State) (m : MasterNo) (k : Master) : State := { s with masters := s.masters.put m k }

def State.setWindow (s : State) (w : WindowNo) (k : WindowWords) : State := { s with windows := s.windows.put w k }

def State.setHp (s : State) (h : HoldPool) : State := { s with hp := h }

def State.setDn (s : State) (d : Downstream) : State := { s with dn := d }

def State.setNw (s : State) (n : NoticeWriter) : State := { s with nw := n }

def State.setMl (s : State) (m : MgmtLink) : State := { s with ml := m }

def State.setTl (s : State) (t : Loader) : State := { s with tl := t }

def State.setHand (s : State) (h : HandOffs) : State := { s with hand := h }

/-- The part drives one more thing on its links (log 10). -/
def State.emit (s : State) (o : Output) : State := { s with out := s.out ++ [o] }

/-- A step begins: nothing of the last step is driven any more (log 10). -/
def State.begin (s : State) : State := { s with out := [] }

/-! ### Free values -/

/-- What item `i` holds where the spec states no value: a free value (log 18, log 36, log 38). -/
def State.hole (s : State) (i : Nat) : Word := Config.absentItem s.free i

/-- The byte of an item without a stated value whose value is a number. -/
def State.holeByte (s : State) (i : Nat) : Byte := (s.hole i).extractLsb' 0 8

/-- The byte of an item without a stated value whose codes are 0 and 1; only codes that name values are written (R205). -/
def State.holeCode (s : State) (i : Nat) : Byte := flagByte ((s.hole i).getLsbD 0)

/-- The free values of a step have been used. -/
def State.countHole (s : State) : State := { s with free := s.free + 1 }

/-! ### The upstream port: phases and answers -/

/-- The phase of an outstanding request (R121). -/
def Outstanding.phase : Outstanding → Phase
  | .none => .none
  | .admitting _ => .admitting
  | .queued _ => .queued
  | .inFlight _ => .inFlight
  | .parked _ => .parked
  | .laneHeld _ _ => .laneHeld

/-- The request record, when a request is outstanding (R117). -/
def Outstanding.request? : Outstanding → Option Request
  | .none => Option.none
  | .admitting rq => some rq
  | .queued rq => some rq
  | .inFlight rq => some rq
  | .parked rq => some rq
  | .laneHeld rq _ => some rq

/-- Master `m`'s outstanding request becomes `o`. A request that is not outstanding does not become so: only
UPSTREAM_REQUEST makes one (R117, R121; log 25). -/
def State.setOutst (s : State) (m : MasterNo) (o : Outstanding) : State :=
  match (s.master m).outst with
  | .none => s
  | _ => s.setMaster m { s.master m with outst := o }

/-- UP answers master `m`: in one step the answer goes on the link, the phase becomes NONE and the record is emptied. A
request whose phase is NONE is not outstanding, and no rule answers it (R119). -/
def State.answer (s : State) (m : MasterNo) (a : Answer) : State :=
  match (s.master m).outst with
  | .none => s
  | _ => (s.setMaster m { s.master m with outst := .none }).emit (.answer m a)

/-- A block hands a notice to NW, which takes it as an event of its own (R153). -/
def State.giveNotice (s : State) (n : Notice) : State :=
  s.setHand { s.hand with notices := s.hand.notices ++ [n] }

/-- The FAULT notice of a request (R153). -/
def faultNotice (reason : Reason) (m : MasterNo) (addr : Word) (w : Option WindowNo) (sub : Subject) : Notice :=
  { kind := .fault, master := m, window := w, subject := sub, reason := some reason, addr := some addr, detail := .none }

/-- A FAULT answered upstream with its FAULT notice (R13, R52, R70, R100, R154). -/
def State.faultWithNotice (s : State) (m : MasterNo) (addr : Word) (reason : Reason) (w : Option WindowNo)
    (sub : Subject) : State :=
  (s.answer m (.fault reason)).giveNotice (faultNotice reason m addr w sub)

/-! ### The downstream port -/

/-- A piece of work is handed to DN, which takes the join as an event of its own (R136; log 6). -/
def State.handJoin (s : State) (e : QueueEntry) : State :=
  s.setHand { s.hand with joins := s.hand.joins ++ [e] }

/-- A master's request goes downstream unchanged, and its phase becomes QUEUED (R14, R36). -/
def State.forward (s : State) (m : MasterNo) (rq : Request) (p : Purpose) : State :=
  (s.setOutst m (.queued rq)).handJoin
    { source := .master m, purpose := p, dir := rq.dir, addr := rq.addr, len := rq.len, data := rq.data }

/-- The arbiter's priority of a source, read at the choice (R137). -/
def State.sourcePrio (s : State) : Source → Nat
  | .master m => (s.master m).prio.toNat
  | .noticeWriter => s.header.internalPrio.toNat
  | .tableLoader => s.header.internalPrio.toNat

/-- The phase change of an issue: a QUEUED request is IN_FLIGHT (R121, R138). -/
def Outstanding.issued : Outstanding → Outstanding
  | .queued rq => .inFlight rq
  | o => o

/-- DN issues an entry that has left the queue (R138). -/
def State.issue (s : State) (e : QueueEntry) : State :=
  let s1 := s.setDn
    { s.dn with
      link := .issued { entry := e, tag := s.dn.tag, retries := 0, timer := s.header.respLimit },
      tag := s.dn.tag + 1 }
  let s2 :=
    match e.source with
    | .master m => s1.setMaster m { s1.master m with outst := (s1.master m).outst.issued }
    | .noticeWriter => s1
    | .tableLoader => s1
  s2.emit (.present s.dn.tag e.dir e.addr e.len e.data)

/-- The highest priority among waiting sources. -/
def State.bestPrio (s : State) (q : List QueueEntry) : Nat :=
  q.foldr (fun e best => max (s.sourcePrio e.source) best) 0

/-- Whether an entry has the highest priority of the queue. -/
def State.isBest (s : State) (e : QueueEntry) : Bool := s.sourcePrio e.source == s.bestPrio s.dn.queue

/-- The arbiter names a winner when the link is IDLE and work waits: the highest priority, and among equals the one that
joined first (R137). -/
def State.arbitrate (s : State) : State :=
  match s.dn.link with
  | .idle =>
    match s.dn.queue.find? s.isBest with
    | some e => (s.setDn { s.dn with queue := s.dn.queue.eraseP s.isBest }).issue e
    | none => s
  | _ => s

/-- An entry joins: it is issued at once on an IDLE link, otherwise it goes to the tail (R136). -/
def State.join (s : State) (e : QueueEntry) : State :=
  match s.dn.link with
  | .idle => s.issue e
  | _ => s.setDn { s.dn with queue := s.dn.queue ++ [e] }

/-- What DN hands to the owners of a result: the result, and for a notice write also its outcome for NW (R144, R145). -/
def State.handResult (s : State) (e : QueueEntry) (ending : Ending) : State :=
  s.setHand
    { s.hand with
      results := s.hand.results ++ [{ entry := e, ending := ending }],
      nwResult :=
        match e.purpose with
        | .notice r => some { ring := r, ending := ending, detached := none }
        | _ => s.hand.nwResult }

/-- The in-flight request ends: the link is IDLE, the result goes to its owner and the arbiter chooses (R140, R142,
R143). -/
def State.endFlight (s : State) (e : QueueEntry) (ending : Ending) : State :=
  ((s.setDn { s.dn with link := .idle }).handResult e ending).arbitrate

/-- SETTLING ends: the link is IDLE and the arbiter chooses (R149). -/
def State.endSettling (s : State) : State := (s.setDn { s.dn with link := .idle }).arbitrate

/-! ### The hold pool -/

/-- The lowest-numbered free entry (R59). -/
def freeSlot (l : List ParkEntry) : Option EntryNo :=
  (List.finRange 8).find? fun i => !l.any fun e => e.slot == i

/-- A re-parked entry goes behind every entry that first parked before it and ahead of every one that first parked after
(R62). -/
def insertByOrder (e : ParkEntry) : List ParkEntry → List ParkEntry
  | [] => [e]
  | x :: rest => if x.order < e.order then x :: insertByOrder e rest else e :: x :: rest

/-- A limit of 0 is no limit (R59). -/
def limitTime (limit : BitVec 16) : Option (BitVec 16) := if limit = 0 then none else some limit

/-- A park offer (R42, R59, R60, R62): the pool with the request in it, or none when no entry is free (R61). `carried` is what
a woken request brings back. -/
def State.park (s : State) (m : MasterNo) (rq : Request) (w : WindowNo) (target : Target) (cause : Cause)
    (limit : BitVec 16) (carried : Option Woken) : Option State :=
  match freeSlot s.hp.list with
  | none => none
  | some slot =>
    match carried with
    | none =>
      let e : ParkEntry :=
        { slot := slot, master := m, rq := rq, window := w, target := target, cause := cause, seq := s.hp.arrival,
          order := s.hp.order, remaining := limitTime limit }
      some ((s.setHp { list := s.hp.list ++ [e], arrival := s.hp.arrival + 1, order := s.hp.order + 1 }).setOutst m
        (.parked rq))
    | some k =>
      let e : ParkEntry :=
        { slot := slot, master := m, rq := rq, window := w, target := target, cause := cause, seq := k.seq,
          order := k.order, remaining := k.remaining }
      some ((s.setHp { s.hp with list := insertByOrder e s.hp.list }).setOutst m (.parked rq))

/-- Whether a parked entry waits for the target (R65): the cause is not considered. -/
def ParkEntry.waitsFor (t : Target) (e : ParkEntry) : Bool := e.target == t

/-- The priority of a parked entry's master, read at the arbitration (R68). -/
def State.entryPrio (s : State) (e : ParkEntry) : Nat := (s.master e.master).prio.toNat

/-- The highest priority among the entries that wait for the target. -/
def State.bestWaiter (s : State) (t : Target) : Nat :=
  s.hp.list.foldr (fun e best => if e.waitsFor t then max (s.entryPrio e) best else best) 0

/-- Whether an entry is eligible and of the highest priority (R65). -/
def State.wins (s : State) (t : Target) (e : ParkEntry) : Bool :=
  e.waitsFor t && s.entryPrio e == s.bestWaiter t

/-- The winner of a wake request: the highest priority, and among equals the earliest first parking, which is the first in
the pool list (R58, R65). -/
def State.winner (s : State) (t : Target) : Option ParkEntry := s.hp.list.find? (s.wins t)

/-- The winner leaves the pool and the pool list (R66, R67). -/
def State.takeWinner (s : State) (t : Target) : State :=
  s.setHp { s.hp with list := s.hp.list.eraseP (s.wins t) }

/-- Every master of a list of entries is answered one FAULT (R72 to R76). The rules give no order among the answers of one cancellation;
the model drives them in the order of the list (DESIGN CHOICE, log 40). -/
def State.answerEntries (s : State) (reason : Reason) : List ParkEntry → State
  | [] => s
  | e :: rest => (s.answer e.master (.fault reason)).answerEntries reason rest

/-- The FAULT notices of cancelled ring entries (R72, R73, R77). -/
def State.noticeEntries (s : State) (reason : Reason) (r : RingNo) : List ParkEntry → State
  | [] => s
  | e :: rest =>
    (s.giveNotice (faultNotice reason e.master e.rq.addr (some e.window) (.ring r))).noticeEntries reason r rest

/-- A cancellation: the entries that `p` names leave the pool and are answered (R72 to R76). -/
def State.cancelEntries (s : State) (reason : Reason) (p : ParkEntry → Bool) : State :=
  (s.setHp { s.hp with list := s.hp.list.filter fun e => !p e }).answerEntries reason (s.hp.list.filter p)

/-- Whether an entry waits on either direction of ring `r`. -/
def ParkEntry.onRing (r : RingNo) (e : ParkEntry) : Bool :=
  match e.target with
  | .ring q _ => q == r
  | .cell _ => false

/-- Whether an entry waits on a cell. -/
def ParkEntry.onCell (e : ParkEntry) : Bool :=
  match e.target with
  | .ring _ _ => false
  | .cell _ => true

/-- The cancellation of a ring's entries with a FAULT notice for each (R72, R73). -/
def State.cancelRing (s : State) (reason : Reason) (r : RingNo) : State :=
  (s.cancelEntries reason (ParkEntry.onRing r)).noticeEntries reason r (s.hp.list.filter (ParkEntry.onRing r))

/-! ### The ring tracker -/

/-- The valid RING window bound to ring `r`, if there is one (R10, R53). -/
def State.boundWindow (s : State) (r : RingNo) : Option WindowNo :=
  (List.finRange 32).find? fun w => winNamesRing (s.window w) r

def Ring.lane (k : Ring) : Side → Lane
  | .producer => k.producer
  | .consumer => k.consumer

def Ring.setLane (k : Ring) (side : Side) (l : Lane) : Ring :=
  match side with
  | .producer => { k with producer := l }
  | .consumer => { k with consumer := l }

/-- A BUSY lane gets its detached mark (R28). -/
def Lane.detach : Lane → Lane
  | .busy m _ => .busy m true
  | l => l

/-- A BUSY lane is made FREE. -/
def Lane.release : Lane → Lane
  | .busy _ _ => .free
  | l => l

/-- Both lanes detached where BUSY, as when the ring leaves RUNNING or is restarted (R48, R55, R144; log 13). -/
def Ring.detachLanes (k : Ring) : Ring :=
  { k with producer := k.producer.detach, consumer := k.consumer.detach }

/-- Cursors and fill at 0 (R47, R50, R55). -/
def Ring.zeroCursors (k : Ring) : Ring := { k with wi := 0, wo := 0, ri := 0, ro := 0, fill := 0 }

/-- The five counters at 0 (R51). -/
def Ring.zeroCounters (k : Ring) : Ring := { k with commits := 0, releases := 0, drops := 0, fills := 0, strays := 0 }

/-- The address of slot `i` of a ring whose window has this base (R24). -/
def slotAddr (base : Word) (k : Ring) (i : Nat) : Word := base + BitVec.ofNat 32 (i * k.cfg.slotSize)

/-- The cursor of a direction (R27). -/
def cursorAddr (base : Word) (k : Ring) : Side → Word
  | .producer => slotAddr base k k.wi + BitVec.ofNat 32 k.wo
  | .consumer => slotAddr base k k.ri + BitVec.ofNat 32 k.ro

/-! ### The notice writer's evaluation -/

/-- Whether the writer may issue on ring `r`, bound to a window (R54, R159). -/
def State.mayWrite (s : State) (r : RingNo) : Bool :=
  s.part == .running && (s.ring r).state == .running && (s.ring r).producer == .free &&
    decide ((s.ring r).fill < (s.ring r).cfg.slotCount)

/-- NW evaluates its conditions; when they hold, the head record leaves the queue with the current lost count, the producer
lane of the notice ring becomes BUSY with master 0 and the record goes to the downstream port (R54, R159). -/
def State.nwEvaluate (s : State) : State :=
  match s.nw.writer, s.nw.queue, s.header.noticeRing with
  | .idle, rec :: rest, some r =>
    match s.boundWindow r with
    | some w =>
      if s.mayWrite r then
        let sent := { rec with lost := s.nw.lost }
        let s1 := s.setNw { s.nw with queue := rest, writer := .writing sent }
        let s2 := s1.setRing r { s.ring r with producer := .busy 0 false }
        s2.handJoin
          { source := .noticeWriter, purpose := .notice r, dir := .write,
            addr := cursorAddr (winBase (s.window w)) (s.ring r) .producer, len := 64, data := recordBytes sent }
      else s
    | none => s
  | _, _, _ => s

/-! ### Wakes -/

/-- The wake condition of a direction (R43), for a ring in RUNNING. -/
def Ring.wakeCondition (k : Ring) : Side → Bool
  | .producer =>
    k.producer == .free &&
      match k.cfg.overrun with
      | .hold => decide (k.fill < k.cfg.slotCount)
      | .refuse => true
      | .overwrite => decide (k.fill < k.cfg.slotCount) || k.consumer == .free
  | .consumer =>
    k.consumer == .free &&
      match k.cfg.underrun with
      | .hold => decide (1 ≤ k.fill)
      | .refuse => true
      | .fill => true

/-- RT's wake request for one direction of a RUNNING ring: the winner leaves the pool, its lane is RESERVED and its phase is
LANE_HELD (R44, R66). For the producer direction of the notice ring NW is told and HP is not asked (R54). -/
def State.wakeSide (s : State) (r : RingNo) (side : Side) : State :=
  if side = .producer ∧ s.header.noticeRing = some r then s.nwEvaluate
  else if (s.ring r).wakeCondition side then
    match s.winner (.ring r side) with
    | none => s
    | some e =>
      let s1 := s.takeWinner (.ring r side)
      let s2 := s1.setRing r ((s.ring r).setLane side (.reserved e.master))
      s2.setOutst e.master
        (.laneHeld e.rq
          { ring := r, side := side, window := e.window, seq := e.seq, order := e.order,
            remaining := e.remaining.map held })
  else s

/-- RT evaluates both directions of a ring in RUNNING (R44). -/
def State.wakeRequests (s : State) (r : RingNo) : State :=
  if (s.ring r).state = .running then (s.wakeSide r .producer).wakeSide r .consumer else s

/-- A lane of ring `r` changes and RT makes the wake requests (R44). -/
def State.setLane (s : State) (r : RingNo) (side : Side) (l : Lane) : State :=
  s.setRing r ((s.ring r).setLane side l)

/-! ### The end of an ownership -/

/-- The valid CLAIM window that covers a cell, if there is one (R101). -/
def State.coveringWindow (s : State) (c : CellNo) : Option WindowNo :=
  (List.finRange 32).find? fun w => winHasCell (s.window w) c

/-- A grant: the generation advances, the owner and its lease are set, and a lapsed owner who is granted is cleared (R84,
R90). -/
def Cell.grant (k : Cell) (m : MasterNo) (lease : BitVec 16) : Cell :=
  { owner := some m, gen := k.gen + 1, lease := limitTime lease,
    lapsed := if k.lapsed = some m then none else k.lapsed }

/-- The ended ownership: no lease, and the owner is the lapsed owner unless it released the cell itself (R89, R99). -/
def Cell.ended (k : Cell) (forced : Bool) : Cell :=
  { k with lease := none, lapsed := if forced then k.owner else k.lapsed }

/-- An ownership ends: the cell is handed over to the winning waiter, who is answered DONE with 0, or it is free (R89, R90).
A handover takes the lease limit of the window the waiter came through (log 17). -/
def State.endOwnership (s : State) (c : CellNo) (forced : Bool) : State :=
  match s.winner (.cell c) with
  | none => s.setCell c { (s.cell c).ended forced with owner := none }
  | some e =>
    ((s.takeWinner (.cell c)).setCell c
      (((s.cell c).ended forced).grant e.master (winLease (s.window e.window)))).answer e.master (.done (wordBytes 0))

/-- The notice of a forced end or a lease expiry: the former owner, the window that covers the cell, the cell, its word and
the generation of the ended ownership (R95, R97, R98, R100). -/
def State.endNotice (s : State) (kind : NoticeKind) (c : CellNo) (m : MasterNo) : Notice :=
  { kind := kind, master := m, window := s.coveringWindow c, subject := .cell c, reason := none,
    addr := (s.coveringWindow c).map fun w => winCellAddr (s.window w) c, detail := .generation (s.cell c).gen }

/-- A forced end of an ownership with its notice (R95, R97, R98). -/
def State.forceEnd (s : State) (kind : NoticeKind) (c : CellNo) (m : MasterNo) : State :=
  (s.endOwnership c true).giveNotice (s.endNotice kind c m)

/-! ### Consistency of the live table -/

/-- Whether the notice ring is NONE or bound to a valid RING entry with an empty write set (R4, R10). -/
def noticeBound (ws : Tbl WindowWords 32) (nr : Option RingNo) : Bool :=
  match nr with
  | none => true
  | some r => (List.finRange 32).any fun w => winNamesRing (ws.nth w) r && winWriteSetEmpty (ws.nth w)

/-! ### A load begins -/

/-- Read k of a table image (R175). -/
def tableRead (addr : Word) (k : Nat) : QueueEntry :=
  { source := .tableLoader, purpose := .table, dir := .read, addr := addr + BitVec.ofNat 32 (64 * k), len := 64,
    data := [] }

/-- The part enters LOADING and TL makes read 0 (R175). -/
def State.beginLoad (s : State) (origin : Origin) (addr : Word) : State :=
  ({ s with part := .loading,
            tl := { s.tl with load := some { origin := origin, addr := addr, reads := 0, staging := [] } } }).handJoin
    (tableRead addr 0)

/-- The table base of the sampled page number (R172). -/
def tableBase (st : Straps) : Word := st.tablePage.zeroExtend 32 <<< 12

/-- The end of a reset: the straps are sampled, the cause is set and the part goes to LOADING or HALTED (R171 to R173). -/
def State.endReset (s : State) (cause : ResetCause) : State :=
  let s1 := { s with straps := s.strapPins, cause := cause, resetAsserted := false }
  if s.strapPins.loadOnReset then s1.beginLoad .reset (tableBase s.strapPins) else { s1 with part := .halted }

end Sys2Proof.Machine
end

