-- ==== Sys2Proof/Machine/RingTracker.lean ====
section
/-! DEFINITION. The ring tracker: a ring request's checks from the role to the flow (2.2 to 2.4), and the completions of ring
accesses (R37, R38, R41, R49). -/

namespace Sys2Proof.Machine

/-- The direction of a ring request: a WRITE goes to the producer side, a READ to the consumer side (R30). -/
def Dir.side : Dir → Side
  | .write => .producer
  | .read => .consumer

/-- Whether the master is in the window's set for the direction (R7, R30, R83). -/
def winMember (w : WindowWords) (dir : Dir) (m : MasterNo) : Bool :=
  match dir with
  | .read => winReads w m
  | .write => winWrites w m

/-- A FAULT that RT answers, with its notice (R52). -/
def State.ringFault (s : State) (m : MasterNo) (rq : Request) (w : WindowNo) (r : RingNo) (reason : Reason) : State :=
  s.faultWithNotice m rq.addr reason (some w) (.ring r)

/-- A lane is made FREE and RT makes the wake requests (R44). -/
def State.freeLane (s : State) (r : RingNo) (side : Side) : State := (s.setLane r side .free).wakeRequests r

/-- A replay that ends without reaching the lane check of its reserved lane makes that lane FREE, with the wake requests (R16,
R45). A request that is no replay has no reserved lane. -/
def State.dropReservation (s : State) (m : MasterNo) : Option Woken → State
  | none => s
  | some k => if (s.ring k.ring).lane k.side = .reserved m then s.freeLane k.ring k.side else s

/-- RT's park offer (R42); a refused offer is answered FAULT POOL_FULL (R61). A re-park keeps the target and window of the
first parking (R62; log 12). -/
def State.ringPark (s : State) (m : MasterNo) (rq : Request) (w : WindowNo) (r : RingNo) (cause : Cause)
    (via : Option Woken) : State :=
  let target := match via with
    | none => Target.ring r (Dir.side rq.dir)
    | some k => Target.ring k.ring k.side
  let window := match via with
    | none => w
    | some k => k.window
  match s.park m rq window target cause (s.ring r).cfg.holdLimit via with
  | some s1 => s1
  | none => s.ringFault m rq w r .poolFull

/-- A ring access goes downstream with its lane BUSY (R36). -/
def State.forwardRing (s : State) (m : MasterNo) (rq : Request) (w : WindowNo) (r : RingNo) : State :=
  s.forward m rq (.ring r (Dir.side rq.dir) w)

/-- A stray: FAULT STRAY, the strays counter, the lane FREE (R32); under STRAY_FREEZE the ring is FROZEN, the other
direction's BUSY lane detached, and HP, CM and NW are told (R33). -/
def State.stray (s : State) (m : MasterNo) (rq : Request) (w : WindowNo) (r : RingNo) : State :=
  let k := s.ring r
  let k1 := { k.setLane (Dir.side rq.dir) .free with strays := k.strays + 1 }
  match k.cfg.stray with
  | .fault => ((s.setRing r k1).ringFault m rq w r .stray).wakeRequests r
  | .freeze =>
    let s1 := (s.setRing r { k1.detachLanes with state := .frozen }).ringFault m rq w r .stray
    let s2 := s1.giveNotice
      { kind := .frozen, master := m, window := some w, subject := .ring r, reason := none, addr := some rq.addr,
        detail := .none }
    s2.setHand { s2.hand with cancelFreeze := s2.hand.cancelFreeze.put r true, cadStop := s2.hand.cadStop.put r true }

/-- The ring after the oldest committed slot is dropped (R35). -/
def Ring.dropSlot (k : Ring) : Ring :=
  { k with ri := (k.ri + 1) % k.cfg.slotCount, ro := 0, fill := k.fill - 1, drops := k.drops + 1 }

/-- The DROP notice of an OVERWRITE drop, from the ring as it stood before (R35). -/
def dropNotice (m : MasterNo) (w : WindowNo) (r : RingNo) (base : Word) (k : Ring) : Notice :=
  { kind := .drop, master := m, window := some w, subject := .ring r, reason := none,
    addr := some (slotAddr base k k.ri), detail := .drop (decide (0 < k.ro)) }

/-- The lane is made FREE, the request is answered FAULT, and RT makes the wake requests (R34, R39). -/
def State.refuseRing (s : State) (m : MasterNo) (rq : Request) (w : WindowNo) (r : RingNo) (reason : Reason) : State :=
  ((s.setLane r (Dir.side rq.dir) .free).ringFault m rq w r reason).wakeRequests r

/-- The lane is made FREE, the request is parked, and RT makes the wake requests (R42, R45). -/
def State.holdRing (s : State) (m : MasterNo) (rq : Request) (w : WindowNo) (r : RingNo) (cause : Cause)
    (via : Option Woken) : State :=
  ((s.setLane r (Dir.side rq.dir) .free).ringPark m rq w r cause via).wakeRequests r

/-- The flow check of a producer write that holds its lane (R34, R35). -/
def State.producerFlow (s : State) (m : MasterNo) (rq : Request) (w : WindowNo) (r : RingNo) (via : Option Woken) :
    State :=
  let k := s.ring r
  if k.fill < k.cfg.slotCount then s.forwardRing m rq w r
  else
    match k.cfg.overrun with
    | .hold => s.holdRing m rq w r .full via
    | .refuse => s.refuseRing m rq w r .full
    | .overwrite =>
      if k.consumer = .free then
        (((s.setRing r k.dropSlot).giveNotice (dropNotice m w r (winBase (s.window w)) k)).forwardRing m rq w r).wakeRequests r
      else s.holdRing m rq w r .lane via

/-- The flow check of a consumer read that holds its lane (R39, R40). -/
def State.consumerFlow (s : State) (m : MasterNo) (rq : Request) (w : WindowNo) (r : RingNo) (via : Option Woken) :
    State :=
  let k := s.ring r
  if 1 ≤ k.fill then s.forwardRing m rq w r
  else
    match k.cfg.underrun with
    | .hold => s.holdRing m rq w r .empty via
    | .refuse => s.refuseRing m rq w r .empty
    | .fill =>
      ((s.setRing r { k with consumer := .free, fills := k.fills + 1 }).answer m
        (.done (fillData k.cfg.fillWord rq.len))).wakeRequests r

/-- The lane, cursor and flow checks of a request to a RUNNING ring (R31, R32, R34, R39). -/
def State.laneCheck (s : State) (m : MasterNo) (rq : Request) (w : WindowNo) (r : RingNo) (via : Option Woken) : State :=
  let side := Dir.side rq.dir
  let lane := (s.ring r).lane side
  if lane = .free ∨ lane = .reserved m then
    let s1 := s.setLane r side (.busy m false)
    if rq.addr = cursorAddr (winBase (s.window w)) (s.ring r) side then
      match side with
      | .producer => s1.producerFlow m rq w r via
      | .consumer => s1.consumerFlow m rq w r via
    else s1.stray m rq w r
  else s.ringPark m rq w r .lane via

/-- The lane reserved for a replay that reached the lane check of another ring or direction, or none (R16). -/
def elsewhere (r : RingNo) (side : Side) : Option Woken → Option Woken
  | none => none
  | some k => if k.ring = r ∧ k.side = side then none else some k

/-- RT takes a request: the role, the ring state, then the lane, the cursor and the flow (R30 to R40). -/
def State.ringHandle (s : State) (m : MasterNo) (rq : Request) (w : WindowNo) (r : RingNo) (via : Option Woken) : State :=
  if winMember (s.window w) rq.dir m then
    match (s.ring r).state with
    | .off => (s.ringFault m rq w r .ringOff).dropReservation m via
    | .frozen => (s.ringFault m rq w r .ringFrozen).dropReservation m via
    | .running => (s.laneCheck m rq w r via).dropReservation m (elsewhere r (Dir.side rq.dir) via)
  else (s.ringFault m rq w r .access).dropReservation m via

/-! ### Completions -/

/-- A result waits for RT when it is a ring access or a notice write of this ring and direction (R144, R145). -/
def DownResult.forRing (r : RingNo) (side : Side) (x : DownResult) : Bool :=
  match x.entry.purpose with
  | .ring q d _ => q == r && d == side
  | .notice q => q == r && side == .producer
  | .pass _ => false
  | .table => false

/-- Whether a request ended with DONE. -/
def Ending.isDone : Ending → Bool
  | .done _ => true
  | .fault => false
  | .timeout => false

/-- The master of a source; 0 for the part itself (R28, R106). -/
def Source.masterNo : Source → MasterNo
  | .master m => m
  | .noticeWriter => 0
  | .tableLoader => 0

/-- The first waiting result that `p` names leaves the hand-offs. -/
def State.takeResult (s : State) (p : DownResult → Bool) : State :=
  s.setHand { s.hand with results := s.hand.results.eraseP p }

/-- The answer of a downstream result (R14, R38, R49, R144). -/
def Ending.toAnswer : Ending → Answer
  | .done data => .done data
  | .fault => .fault .downFault
  | .timeout => .fault .downTimeout

/-- The reason of a downstream failure (R14). -/
def Ending.reason : Ending → Reason
  | .timeout => .downTimeout
  | .fault => .downFault
  | .done _ => .downFault

/-- UP answers the master whose request is in flight; the notice writer has no answer upstream (R119, R144, R145). -/
def State.answerSource (s : State) (src : Source) (a : Answer) : State :=
  match src with
  | .master m =>
    match (s.master m).outst with
    | .inFlight _ => s.answer m a
    | _ => s
  | .noticeWriter => s
  | .tableLoader => s

/-- RT tells NW what it found of the lane, when NW has not yet taken the result of its write (R145; log 16). -/
def State.noteDetached (s : State) (r : RingNo) (src : Source) (d : Bool) : State :=
  match src, s.hand.nwResult with
  | .noticeWriter, some x =>
    if x.ring = r then s.setHand { s.hand with nwResult := some { x with detached := some d } } else s
  | _, _ => s

/-- A lane is detached unless it is BUSY with a clear mark. -/
def Lane.isDetached : Lane → Bool
  | .busy _ d => d
  | .free => true
  | .reserved _ => true

/-- The ring after a producer write of this length has completed: WO grows, and a full slot is committed (R37). -/
def Ring.producerAdvance (k : Ring) (len : Nat) : Ring :=
  if k.wo + len = k.cfg.slotSize then
    { k with wi := (k.wi + 1) % k.cfg.slotCount, wo := 0, fill := k.fill + 1, commits := k.commits + 1 }
  else { k with wo := k.wo + len }

/-- The ring after a consumer read of this length has completed: RO grows, and a drained slot is released (R41). -/
def Ring.consumerAdvance (k : Ring) (len : Nat) : Ring :=
  if k.ro + len = k.cfg.slotSize then
    { k with ri := (k.ri + 1) % k.cfg.slotCount, ro := 0, fill := k.fill - 1, releases := k.releases + 1 }
  else { k with ro := k.ro + len }

/-- The base of the window bound to a ring. The cursors of an unbound ring have no address (R27), and a slot it commits has none
that the spec states: its base is a free value (log 36). -/
def State.ringBase (s : State) (r : RingNo) : Word :=
  match s.boundWindow r with
  | some w => winBase (s.window w)
  | none => s.hole 0

/-- The window of a CADENCE notice: the one bound to the ring. R112 says that it is never none, and states no number for a ring whose window
has been edited away in HALTED since: it is a free value (log 36). -/
def State.cadenceWindow (s : State) (r : RingNo) : WindowNo :=
  match s.boundWindow r with
  | some w => w
  | none => Fin.ofNat 32 (s.hole 1).toNat

/-- A free value that has stood in for an unbound ring's window is counted as used (log 36). -/
def State.countUnbound (s : State) (r : RingNo) : State :=
  match s.boundWindow r with
  | some _ => s
  | none => s.countHole

/-- RT signals CM with a commit (R106). -/
def State.signalCommit (s : State) (r : RingNo) (m : MasterNo) (addr : Word) : State :=
  (s.countUnbound r).setHand { s.hand with commits := s.hand.commits ++ [{ ring := r, master := m, addr := addr }] }

/-- A producer write's DONE (R37, R49). -/
def State.producerDone (s : State) (r : RingNo) (e : QueueEntry) : State :=
  let k := s.ring r
  let d := k.producer.isDetached
  let k1 := if d then k else k.producerAdvance e.len
  let s1 := s.setRing r { k1 with producer := k.producer.release }
  let s2 := if !d && k.wo + e.len == k.cfg.slotSize then
      s1.signalCommit r (Source.masterNo e.source) (slotAddr (s.ringBase r) k k.wi)
    else s1
  ((s2.answerSource e.source (.done [])).noteDetached r e.source d).wakeRequests r

/-- A consumer read's DONE (R41, R49). -/
def State.consumerDone (s : State) (r : RingNo) (e : QueueEntry) (data : List Byte) : State :=
  let k := s.ring r
  let k1 := if k.consumer.isDetached then k else k.consumerAdvance e.len
  ((s.setRing r { k1 with consumer := k.consumer.release }).answerSource e.source (.done data)).wakeRequests r

/-- The window a ring access's notice carries: the one it was admitted under (R52; log 15). -/
def Purpose.window : Purpose → Option WindowNo
  | .pass w => w
  | .ring _ _ w => some w
  | .notice _ => none
  | .table => none

/-- The FAULT notice of a failed master's access; the notice writer's own writes give none (R52, R145). -/
def State.noticeSource (s : State) (e : QueueEntry) (ending : Ending) (sub : Subject) : State :=
  match e.source with
  | .master m => s.giveNotice (faultNotice ending.reason m e.addr e.purpose.window sub)
  | .noticeWriter => s
  | .tableLoader => s

/-- A ring access's FAULT or TIMEOUT: no cursor, fill or counter changes (R38, R49, R162). -/
def State.accessFailed (s : State) (r : RingNo) (side : Side) (e : QueueEntry) (ending : Ending) : State :=
  let lane := (s.ring r).lane side
  let s1 := s.setLane r side lane.release
  let s2 := (s1.answerSource e.source ending.toAnswer).noticeSource e ending (.ring r)
  (s2.noteDetached r e.source lane.isDetached).wakeRequests r

/-- RING_PRODUCER_DONE: RT takes the DONE of ring `r`'s producer access (R37, R49, R54). -/
def execRingProducerDone (r : RingNo) (s : State) : Host.Outcome State Fault Refusal :=
  let p := fun x : DownResult => x.forRing r .producer && x.ending.isDone
  match s.hand.results.find? p with
  | some x => .next ((s.begin.takeResult p).producerDone r x.entry)
  | none => .next s.begin

/-- RING_CONSUMER_DONE: RT takes the DONE of ring `r`'s consumer access (R41, R49). -/
def execRingConsumerDone (r : RingNo) (s : State) : Host.Outcome State Fault Refusal :=
  let p := fun x : DownResult => x.forRing r .consumer && x.ending.isDone
  match s.hand.results.find? p with
  | some x =>
    .next ((s.begin.takeResult p).consumerDone r x.entry (match x.ending with | .done data => data | _ => []))
  | none => .next s.begin

/-- RING_ACCESS_FAILED: RT takes the FAULT or TIMEOUT of a ring access (R38, R49, R145). -/
def execRingAccessFailed (r : RingNo) (side : Side) (s : State) : Host.Outcome State Fault Refusal :=
  let p := fun x : DownResult => x.forRing r side && !x.ending.isDone
  match s.hand.results.find? p with
  | some x => .next ((s.begin.takeResult p).accessFailed r side x.entry x.ending)
  | none => .next s.begin

end Sys2Proof.Machine
end

