-- ==== Sys2Proof/Machine/ClaimUnit.lean ====
section
/-! DEFINITION. The claim unit: claim reads and writes (4.2 to 4.4), leases (4.5) and the ends of ownership that other blocks ask
for (R98, R102). -/

namespace Sys2Proof.Machine

/-- A FAULT that CU answers, with its notice (R100). -/
def State.claimFault (s : State) (m : MasterNo) (rq : Request) (w : WindowNo) (c : CellNo) (reason : Reason) : State :=
  s.faultWithNotice m rq.addr reason (some w) (.cell c)

/-- A claim read that is not granted: DONE with the reply word (R82). -/
def State.claimReply (s : State) (m : MasterNo) (c : CellNo) (waited : Bool) : State :=
  s.answer m (.done (wordBytes (replyWord (s.cell c).owner (s.cell c).gen waited)))

/-- A claim read (R84 to R87). A woken ring request whose replay comes here, after an edit in HALTED, and must wait is parked on this cell
under the window its replay has found, `w`, and not under that of its first parking (DEDUCED, log 12). -/
def State.claimRead (s : State) (m : MasterNo) (rq : Request) (w : WindowNo) (c : CellNo) (via : Option Woken) : State :=
  match (s.cell c).owner with
  | none =>
    (s.setCell c ((s.cell c).grant m (winLease (s.window w)))).answer m (.done (wordBytes 0))
  | some o =>
    if o = m then s.claimReply m c false
    else if winWait (s.window w) then
      match s.park m rq w (.cell c) .claim (winWaitLimit (s.window w)) via with
      | some s1 => s1
      | none => s.claimReply m c true
    else s.claimReply m c false

/-- A claim write: a release by the owner, LATE_RELEASE for the lapsed owner, NOT_OWNER for any other (R91 to R93). -/
def State.claimWrite (s : State) (m : MasterNo) (rq : Request) (w : WindowNo) (c : CellNo) : State :=
  if (s.cell c).owner = some m then (s.answer m (.done [])).endOwnership c false
  else if (s.cell c).lapsed = some m then
    (s.setCell c { s.cell c with lapsed := none }).claimFault m rq w c .lateRelease
  else s.claimFault m rq w c .notOwner

/-- The cell that an address selects behind a CLAIM entry (R15, R81). -/
def winCellOf (w : WindowWords) (addr : Word) : CellNo :=
  Fin.ofNat 64 (winLow w + (addr.toNat - (winBase w).toNat) / 4)

/-- CU takes a request: the role, the length, then the cell's owner and lapsed owner (R83). -/
def State.claimHandle (s : State) (m : MasterNo) (rq : Request) (w : WindowNo) (c : CellNo) (via : Option Woken) :
    State :=
  if winMember (s.window w) rq.dir m then
    if rq.len = 4 then
      match rq.dir with
      | .read => s.claimRead m rq w c via
      | .write => s.claimWrite m rq w c
    else s.claimFault m rq w c .claimShape
  else s.claimFault m rq w c .access

/-- A present timer decreases by 1; one that has run out stays at 0 until its expiry is taken (R64, R94, R109; log 7). -/
def countDown {n : Nat} : Option (BitVec n) → Option (BitVec n)
  | none => none
  | some t => some (if t = 0 then 0 else t - 1)

/-- MILLISECOND_STEP: every present lease remaining decreases by 1 (R94). -/
def execMillisecondStep (s : State) : Host.Outcome State Fault Refusal :=
  if s.cu.msDue = 0 then .next s.begin
  else
    .next
      { s.begin with
        cu := { s.cu with msDue := s.cu.msDue - 1 },
        cells := s.cells.mapAll fun k => { k with lease := countDown k.lease } }

/-- LEASE_EXPIRY: cell `c`'s lease has reached 0; its ownership ends with a LEASE notice (R95). -/
def execLeaseExpiry (c : CellNo) (s : State) : Host.Outcome State Fault Refusal :=
  match (s.cell c).lease, (s.cell c).owner with
  | some t, some o => if t = 0 then .next (s.begin.forceEnd .lease c o) else .next s.begin
  | _, _ => .next s.begin

/-- DROP_OWNERSHIPS: CU ends the ownership of one cell that the dropped master owned at the drop, if that master owns it still
(R98, R96; log 20). -/
def execDropOwnerships (m : MasterNo) (c : CellNo) (s : State) : Host.Outcome State Fault Refusal :=
  if s.hand.drops.contains (m, c) then
    let s1 := s.begin.setHand { s.hand with drops := s.hand.drops.erase (m, c) }
    if (s.cell c).owner = some m then .next (s1.forceEnd .forcedFree c m) else .next s1
  else .next s.begin

/-- STOP_CELLS: every cell is freed with generation 0 and no lapsed owner, without handover or notice, and the waiters of the
freed cells are answered FAULT STOPPED in the same step (R75, R102). -/
def execStopCells (s : State) : Host.Outcome State Fault Refusal :=
  if s.hand.stopCells then
    let s1 := s.begin.setHand { s.hand with stopCells := false }
    .next ({ s1 with cells := Tbl.all 64 Cell.reset }.cancelEntries .stopped ParkEntry.onCell)
  else .next s.begin

end Sys2Proof.Machine
end

