-- ==== Sys2Proof/Machine/CadenceMonitor.lean ====
section
/-! DEFINITION. The cadence monitor (Section 5). -/

namespace Sys2Proof.Machine

/-- The monitor is active for a RUNNING ring with a cadence target above 0 (R104). -/
def Ring.monitored (k : Ring) : Bool := k.state == .running && k.cfg.target != 0

/-- The class of a measured interval (R107). -/
def intervalClass (cfg : RingConfig) (interval : BitVec 16) : CadClass :=
  if cfg.target.toNat + cfg.tolerance.toNat < interval.toNat then .slow
  else if interval.toNat < cfg.target.toNat - cfg.tolerance.toNat then .fast
  else .on

/-- The confirmation of a measured class (R108). -/
def Cadence.confirm (k : Cadence) (x : CadClass) (count : Nat) : Cadence :=
  if x = k.cls then { k with candidate := none, run := 0 }
  else
    let run := if k.candidate = some x then k.run + 1 else 1
    if run = count then { k with cls := x, candidate := none, run := 0 }
    else { k with candidate := some x, run := run }

/-- The watch timer's full value, target plus tolerance (R109). -/
def watchTime (cfg : RingConfig) : BitVec 17 := BitVec.ofNat 17 (cfg.target.toNat + cfg.tolerance.toNat)

/-- The cadence state after a commit that the monitor takes (R106). -/
def Cadence.commit (k : Cadence) (cfg : RingConfig) : Cadence :=
  let k1 := match k.elapsed with
    | none => k
    | some i => { k.confirm (intervalClass cfg i) cfg.confirm with last := some i }
  { k1 with elapsed := some 0, watch := some (watchTime cfg) }

/-- CM gives NW a CADENCE notice (R112). -/
def State.cadenceNotice (s : State) (r : RingNo) (m : MasterNo) (addr : Option Word) (old new : CadClass)
    (interval : BitVec 16) (watch : Bool) : State :=
  (s.countUnbound r).giveNotice
    { kind := .cadence, master := m, window := some (s.cadenceWindow r), subject := .ring r, reason := none, addr := addr,
      detail := .cadence old new interval watch }

/-- CM takes a commit of a monitored ring, with a notice when the class changes (R106, R112). -/
def State.cadenceCommit (s : State) (c : CommitSignal) : State :=
  let k := s.cad c.ring
  let k1 := k.commit (s.ring c.ring).cfg
  let s1 := s.setCad c.ring k1
  if k1.cls = k.cls then s1
  else s1.cadenceNotice c.ring c.master (some c.addr) k.cls k1.cls (k.elapsed.getD 0) false

/-- CADENCE_COMMIT: CM takes the oldest waiting commit signal of ring `r` (R106). A ring that is not monitored is not touched
(R104). -/
def execCadenceCommit (r : RingNo) (s : State) : Host.Outcome State Fault Refusal :=
  let p := fun c : CommitSignal => c.ring == r
  match s.hand.commits.find? p with
  | some c =>
    let s1 := s.begin.setHand { s.hand with commits := s.hand.commits.eraseP p }
    if (s.ring c.ring).monitored then .next (s1.cadenceCommit c) else .next s1
  | none => .next s.begin

/-- The cadence state after a watch timer expiry (R110). -/
def Cadence.expire (k : Cadence) : Cadence := { k with watch := none, candidate := none, run := 0, cls := .slow }

/-- WATCH_EXPIRY: ring `r`'s watch timer has reached 0 (R110). -/
def execWatchExpiry (r : RingNo) (s : State) : Host.Outcome State Fault Refusal :=
  if (s.cad r).watch = some 0 then
    let s1 := s.begin.setCad r (s.cad r).expire
    if (s.cad r).cls = .slow then .next s1
    else .next (s1.cadenceNotice r 0 none (s.cad r).cls .slow ((s.cad r).elapsed.getD 0) true)
  else .next s.begin

/-- STOP_CADENCE: CM takes ring `r`'s departure from RUNNING and stops its watch timer (R113). The rules give no order to a departure and a
start of the same ring that both wait: the sender chooses, and a departure taken after the start stops the new run's timer (DESIGN
CHOICE, log 39). -/
def execStopCadence (r : RingNo) (s : State) : Host.Outcome State Fault Refusal :=
  if s.hand.cadStop.nth r then
    .next ((s.begin.setHand { s.hand with cadStop := s.hand.cadStop.put r false }).stopWatch r)
  else .next s.begin

/-- CADENCE_RING_START: CM takes ring `r`'s start (R114). -/
def execCadenceRingStart (r : RingNo) (s : State) : Host.Outcome State Fault Refusal :=
  if s.hand.cadStart.nth r then
    .next ((s.begin.setHand { s.hand with cadStart := s.hand.cadStart.put r false }).setCad r Cadence.initial)
  else .next s.begin

end Sys2Proof.Machine
end

