-- ==== Sys2Proof/Machine/DownstreamPort.lean ====
section
/-! DEFINITION. The downstream port's own events (Section 7). -/

namespace Sys2Proof.Machine

/-- QUEUE_JOIN: DN takes the work that this source has handed over (R136). -/
def execQueueJoin (src : Source) (s : State) : Host.Outcome State Fault Refusal :=
  let p := fun e : QueueEntry => e.source == src
  match s.hand.joins.find? p with
  | some e => .next ((s.begin.setHand { s.hand with joins := s.hand.joins.eraseP p }).join e)
  | none => .next s.begin

/-- The in-flight request ends with DONE, carrying the read data for a READ (R140). A late response that is taken for this request may
carry data of another length (R139, R149): a WRITE has no use for it, and what data a READ is then answered with is not stated, so it is
free bytes of the request's length (log 38). -/
def State.doneFlight (s : State) (e : QueueEntry) (data : List Byte) : State :=
  match e.dir with
  | .write => s.endFlight e (.done [])
  | .read =>
    if data.length = e.len then s.endFlight e (.done data)
    else s.countHole.endFlight e (.done ((List.range e.len).map s.holeByte))

/-- DOWNSTREAM_DONE: a DONE with the in-flight tag ends the request; with the settling tag it ends SETTLING; any other is discarded
(R139, R140, R149). -/
def execDownstreamDone (tag : BitVec 4) (data : List Byte) (s : State) : Host.Outcome State Fault Refusal :=
  match s.dn.link with
  | .issued f =>
    if tag = f.tag then .next (s.begin.doneFlight f.entry data) else .next s.begin
  | .settling t _ => if tag = t then .next s.begin.endSettling else .next s.begin
  | .idle => .next s.begin

/-- DOWNSTREAM_RETRY: within the retry budget the same request is presented again with its tag and a fresh timer; beyond it the RETRY
is taken as a FAULT (R139, R141, R149). -/
def execDownstreamRetry (tag : BitVec 4) (s : State) : Host.Outcome State Fault Refusal :=
  match s.dn.link with
  | .issued f =>
    if tag = f.tag then
      if f.retries.toNat < s.header.retryBudget.toNat then
        .next ((s.begin.setDn
            { s.dn with link := .issued { f with retries := f.retries + 1, timer := s.header.respLimit } }).emit
          (.present f.tag f.entry.dir f.entry.addr f.entry.len f.entry.data))
      else .next (s.begin.endFlight f.entry .fault)
    else .next s.begin
  | .settling t _ => if tag = t then .next s.begin.endSettling else .next s.begin
  | .idle => .next s.begin

/-- DOWNSTREAM_FAULT: a FAULT with the in-flight tag ends the request with result FAULT (R139, R142, R149). -/
def execDownstreamFault (tag : BitVec 4) (s : State) : Host.Outcome State Fault Refusal :=
  match s.dn.link with
  | .issued f => if tag = f.tag then .next (s.begin.endFlight f.entry .fault) else .next s.begin
  | .settling t _ => if tag = t then .next s.begin.endSettling else .next s.begin
  | .idle => .next s.begin

/-- RESPONSE_TIMEOUT: the response timer has reached 0 and the request ends with result TIMEOUT (R143). -/
def execResponseTimeout (s : State) : Host.Outcome State Fault Refusal :=
  match s.dn.link with
  | .issued f => if f.timer = 0 then .next (s.begin.endFlight f.entry .timeout) else .next s.begin
  | .settling _ _ => .next s.begin
  | .idle => .next s.begin

/-- SETTLING_END: the settling time has reached 0; the link is IDLE and the arbiter chooses (R149). -/
def execSettlingEnd (s : State) : Host.Outcome State Fault Refusal :=
  match s.dn.link with
  | .settling _ t => if t = 0 then .next s.begin.endSettling else .next s.begin
  | .issued _ => .next s.begin
  | .idle => .next s.begin

end Sys2Proof.Machine
end

