-- ==== Sys2Proof/Machine/NoticeEvents.lean ====
section
/-! DEFINITION. The notice writer's events: creating a notice (R155 to R158), the result of a notice write (R160 to R162) and the part's
entry into RUNNING (R183). -/

namespace Sys2Proof.Machine

/-- Whether the working mask enables a kind: bit k - 1 for kind code k (R155, R206). -/
def maskEnables (mask : BitVec 7) (k : NoticeKind) : Bool := mask.getLsbD (kindCode k - 1)

/-- The places of the pending queue that are taken: the queued records and the record in flight (R157). -/
def NoticeWriter.filled (n : NoticeWriter) : Nat :=
  n.queue.length + match n.writer with
    | .writing _ => 1
    | .idle => 0
    | .stalled => 0

/-- NW creates a notice: it is numbered and stamped, and joins the queue or is lost (R156 to R158). The lost count field is set when
the record leaves the part (R152). -/
def State.createNotice (s : State) (n : Notice) : State :=
  let rec1 : NoticeRecord := { notice := n, seq := s.nw.seq, stamp := s.timestamp, lost := 0 }
  if s.nw.filled < Config.noticePlaces then
    (s.setNw { s.nw with seq := s.nw.seq + 1, queue := s.nw.queue ++ [rec1] }).nwEvaluate
  else
    s.setNw { s.nw with seq := s.nw.seq + 1, lost := if s.nw.lost = 65535 then 65535 else s.nw.lost + 1 }

/-- NOTICE_HANDOFF: NW takes the `i`-th of the notices handed to it, oldest first, and creates it when its kind is enabled (R155,
R156; NW may take them in any order). -/
def execNoticeHandoff (i : Nat) (s : State) : Host.Outcome State Fault Refusal :=
  match s.hand.notices[i]? with
  | some n =>
    let s1 := s.begin.setHand { s.hand with notices := s.hand.notices.eraseIdx i }
    if maskEnables s.nw.mask n.kind then .next (s1.createNotice n) else .next s1
  | none => .next s.begin

/-- Whether the lane of a notice write was detached: as RT found it, or as the lane stands when RT has not yet taken the completion
(R145, R160, R161; log 16). -/
def State.noticeDetached (s : State) (x : NoticeResult) : Bool :=
  match x.detached with
  | some d => d
  | none => (s.ring x.ring).producer.isDetached

/-- NW's handling of the outcome of the record in flight (R160 to R162). -/
def State.noticeResult (s : State) (x : NoticeResult) (sent : NoticeRecord) : State :=
  if x.ending.isDone then
    if s.noticeDetached x then
      (s.setNw { s.nw with queue := sent :: s.nw.queue, writer := .idle }).nwEvaluate
    else (s.setNw { s.nw with writer := .idle }).nwEvaluate
  else s.setNw { s.nw with queue := sent :: s.nw.queue, writer := .stalled }

/-- NOTICE_WRITE_RESULT: NW takes the result of its notice write (R145, R160 to R162). -/
def execNoticeWriteResult (s : State) : Host.Outcome State Fault Refusal :=
  match s.hand.nwResult, s.nw.writer with
  | some x, .writing sent => .next ((s.begin.setHand { s.hand with nwResult := none }).noticeResult x sent)
  | _, _ => .next s.begin

/-- RUN_ENTRY_NOTICES: NW takes the part's entry into RUNNING and evaluates its conditions (R159, R183). -/
def execRunEntryNotices (s : State) : Host.Outcome State Fault Refusal :=
  if s.hand.runNotices then .next (s.begin.setHand { s.hand with runNotices := false }).nwEvaluate
  else .next s.begin

end Sys2Proof.Machine
end

