-- ==== Sys2Proof/Machine/PartEvents.lean ====
section
/-! DEFINITION. The part's entry into RUNNING and its STOP as the ring tracker takes them (R55), the header copies (R3), and the
resets (R130, R148, R171 to R173). -/

namespace Sys2Proof.Machine

/-- RT's start of one ring at the part's entry into RUNNING (R55): cursors, fill and counters at 0, the ring RUNNING, CM told; a BUSY
lane stays BUSY and detached (R144; log 13). A ring with start-at-run clear keeps its record, and its watch timer is absent (R114); that a
ring which is RUNNING at that moment is left with its timer is the model's choice (log 14). -/
def State.runEntryRing (s : State) (r : RingNo) : State :=
  if (s.ring r).cfg.startAtRun then
    ((s.setRing r { (s.ring r).detachLanes.zeroCursors.zeroCounters with state := .running }).setHand
      { s.hand with cadStart := s.hand.cadStart.put r true }).wakeRequests r
  else if (s.ring r).state = .running then s
  else s.stopWatch r

/-- RUN_ENTRY_RINGS: RT takes the part's entry into RUNNING (R55, R183). -/
def execRunEntryRings (s : State) : Host.Outcome State Fault Refusal :=
  if s.hand.runRings then
    .next ((List.finRange 8).foldl State.runEntryRing (s.begin.setHand { s.hand with runRings := false }))
  else .next s.begin

/-- The flags of CM's departures with every RUNNING ring marked (R55, R113; log 21). -/
def State.departures (s : State) : Tbl Bool 8 :=
  Tbl.tabulate fun r => s.hand.cadStop.nth r || (s.ring r).state == .running

/-- STOP_RINGS: RT takes STOP: every ring OFF with cursors, fill and counters kept, BUSY lanes detached, and CM told of each ring that
has left RUNNING (R55, R184). -/
def execStopRings (s : State) : Host.Outcome State Fault Refusal :=
  if s.hand.stopRings then
    .next
      { s.begin.setHand { s.hand with stopRings := false, cadStop := s.departures } with
        rings := s.rings.mapAll fun k => { k.detachLanes with state := .off } }
  else .next s.begin

/-- The master records with the header's priorities (R3). -/
def copyPrios (h : Header) (ms : Tbl Master 16) : Tbl Master 16 :=
  Tbl.tabulate fun m => if m.val = 0 then ms.nth m else { ms.nth m with prio := h.prios.nth m }

/-- The header's notice mask and priorities overwrite the working copies (R3). -/
def State.copyHeader (s : State) : State :=
  { s with nw := { s.nw with mask := s.header.mask }, masters := copyPrios s.header s.masters }

/-- HEADER_COPY: the working copies are overwritten after a WRITE_HEADER (R3, R22, R195), with the header as it stands then; two
WRITE_HEADERs before it leave one overwriting to take (DESIGN CHOICE, log 41). -/
def execHeaderCopy (s : State) : Host.Outcome State Fault Refusal :=
  if s.hand.headerCopy then .next (s.begin.setHand { s.hand with headerCopy := false }).copyHeader
  else .next s.begin

/-- Every block at its values after hard reset; the reset cause and the sampled straps stay until the release (R171 to R173). The
levels on the strap inputs and the count of free values are no block's and go on. -/
def State.hardReset (s : State) : State :=
  { State.reset with cause := s.cause, strapPins := s.strapPins, straps := s.straps, free := s.free, pending := s.pending }

/-- RESET_N_ASSERT: the part is in RESET, every outstanding request is abandoned without an answer, every block takes its hard reset
values (R131, R150, R171, R202). -/
def execResetNAssert (s : State) : Host.Outcome State Fault Refusal := .next s.hardReset

/-- RESET_N_RELEASE: the straps are sampled, the reset cause becomes LINE, and the part goes to LOADING or HALTED (R171, R172). -/
def execResetNRelease (straps : Straps) (s : State) : Host.Outcome State Fault Refusal :=
  if s.resetAsserted then .next ({ s.begin with strapPins := straps }.endReset .line) else .next s.begin

/-- Every outstanding request, that of master number 0 included, is answered FAULT RESET (R130). The rules ask for no order among the
answers; the model drives them in the order of the master numbers (DESIGN CHOICE, log 40). -/
def State.answerAll (s : State) (reason : Reason) : State :=
  (List.finRange 16).foldl (fun t m => t.answer m (.fault reason)) s

/-- The downstream link at a soft reset: a request in flight is abandoned into SETTLING with its tag and its remaining time (R148). -/
def Link.softReset : Link → Link
  | .idle => .idle
  | .issued f => .settling f.tag (held f.timer)
  | .settling tag t => .settling tag t

/-- The soft reset begins (R173, steps 1 and 2): every outstanding request is answered, the part is in RESET and every block takes its
values after soft reset; the management link is kept (R202). `straps` are the levels on the strap inputs (log 9). -/
def State.beginSoftReset (s : State) (straps : Straps) : State :=
  let s1 := s.answerAll .reset
  { State.reset with
      resetAsserted := false, strapPins := straps, straps := s1.straps, cause := s1.cause, ml := s1.ml, out := s1.out,
      free := s1.free, pending := s1.pending, dn := { queue := [], link := s1.dn.link.softReset, tag := 0 } }

end Sys2Proof.Machine
end

