-- ==== Sys2Proof/Machine/TableLoader.lean ====
section
/-! DEFINITION. The table loader: the checks of a staging copy (R177, R178), the install (R179), the end of a load (R180) and the event
that takes a table read's result (R176). -/

namespace Sys2Proof.Machine

/-- A table that has passed every check: the header, the 32 entries and the eight ring configurations. -/
structure Image where
  header : Header
  windows : Tbl WindowWords 32
  configs : Tbl RingConfig 8
  deriving DecidableEq, Repr

/-- A load status that reports a failure (R174). -/
structure Failure where
  code : LoadCode
  index : Option (Fin 32)
  deriving DecidableEq, Repr

/-- Word `i` of the image; a staging copy that is complete holds all 208. -/
def imageWord (ws : List Word) (i : Nat) : Word := ws.getD i 0

/-- Window entry `j` of the image: words 16 + 4j to 16 + 4j + 3 (R206). -/
def imageWindow (ws : List Word) (j : WindowNo) : WindowWords :=
  Tbl.tabulate fun k => imageWord ws (16 + 4 * j.val + k.val)

/-- Ring record `r` of the image: words 144 + 8r to 144 + 8r + 7 (R206). -/
def imageRing (ws : List Word) (r : RingNo) : RingWords :=
  Tbl.tabulate fun k => imageWord ws (144 + 8 * r.val + k.val)

/-- The sum of the words modulo 2^32 (R177, check 2). -/
def wordSum (ws : List Word) : Word := ws.foldr (· + ·) 0

/-- The lowest-numbered `j` for which `clash` holds against some lower-numbered entry (R178, checks 5 and 7). -/
def firstClash (clash : WindowNo → WindowNo → Bool) : Option WindowNo :=
  (List.finRange 32).find? fun j => (List.finRange 32).any fun i => decide (i < j) && clash i j

/-- A ring number as the index of a load status. -/
def ringIndex (r : RingNo) : Fin 32 := ⟨r.val, by omega⟩

/-- Check 6(b) for entry `j`: the ring it names is named by no lower-numbered valid RING entry, and the sizes match (R178). -/
def bindingFails (ws : Tbl WindowWords 32) (cs : Tbl RingConfig 8) (j : WindowNo) : Bool :=
  winValid (ws.nth j) && winKind (ws.nth j) == .ring &&
    ((List.finRange 32).any (fun i => decide (i < j) && winSameRing (ws.nth i) (ws.nth j)) ||
      winSize (ws.nth j) != (cs.nth (winRing (ws.nth j))).slotSize * (cs.nth (winRing (ws.nth j))).slotCount)

/-- Checks 4 to 7 of a header, the window entries and the ring records (R178). -/
def validateTable (h : Header) (ws : Tbl WindowWords 32) (rws : RingNo → RingWords) : Except Failure Image :=
  match (List.finRange 32).find? fun j => !winWellFormed (ws.nth j) with
  | some j => .error { code := .badWindow, index := some j }
  | none =>
  match firstClash fun i j => winOverlap (ws.nth i) (ws.nth j) with
  | some j => .error { code := .overlap, index := some j }
  | none =>
  match (List.finRange 8).find? fun r => (decodeImageRing (rws r)).isNone with
  | some r => .error { code := .badRing, index := some (ringIndex r) }
  | none =>
  let cs : Tbl RingConfig 8 := Tbl.tabulate fun r => (decodeImageRing (rws r)).getD RingConfig.unconfigured
  match (List.finRange 32).find? fun j => bindingFails ws cs j with
  | some j => .error { code := .badRing, index := some (ringIndex (winRing (ws.nth j))) }
  | none =>
  if noticeBound ws h.noticeRing then
    match firstClash fun i j => winCellsOverlap (ws.nth i) (ws.nth j) with
    | some j => .error { code := .badCells, index := some j }
    | none => .ok { header := h, windows := ws, configs := cs }
  else .error { code := .badRing, index := h.noticeRing.map ringIndex }

/-- The seven checks of a complete staging copy, in their order (R177, R178). -/
def validate (ws : List Word) : Except Failure Image :=
  if imageWord ws 0 ≠ Config.formatValue then .error { code := .badFormat, index := none }
  else if wordSum ws ≠ 0 then .error { code := .badBalance, index := none }
  else
    match decodeHeader (imageWord ws 0) (imageWord ws 1) (Tbl.tabulate fun k => imageWord ws (2 + k.val)) with
    | none => .error { code := .badHeader, index := none }
    | some h => validateTable h (Tbl.tabulate (imageWindow ws)) (imageRing ws)

/-- The pending LOAD completes with OK when the part has left LOADING (R180, R193). -/
def State.completeLoad (s : State) : State :=
  match s.ml.long with
  | some p =>
    match p.command with
    | .load =>
      s.setMl
        { s.ml with
          response := some { code := 0x17, frame := p.frame, status := .ok, refusal := false, data := [] },
          long := none }
    | .reset => s
  | none => s

/-- A load ends in failure (R180). -/
def State.failLoad (s : State) (f : Failure) : State :=
  ({ s with part := .halted, tl := { s.tl with code := f.code, index := f.index, load := none } }).completeLoad

/-- RT's part of an install: the new configuration, the ring OFF, cursors, fill and counters at 0, lanes kept, with a BUSY lane
detached (R55, R179; log 13). -/
def Ring.install (k : Ring) (c : RingConfig) : Ring :=
  { k.detachLanes.zeroCursors.zeroCounters with cfg := c, state := .off }

/-- The blocks take their parts of an image that has passed every check (R3, R55, R114, R179). -/
def State.install (s : State) (i : Image) : State :=
  State.copyHeader
    { s with
      header := i.header, windows := i.windows,
      rings := Tbl.tabulate fun r => (s.ring r).install (i.configs.nth r),
      cadence := Tbl.all 8 Cadence.initial,
      tl := { valid := true, code := .ok, index := none, load := none } }

/-- The part state after a successful load: RUNNING with its follow-on events for a load at reset, HALTED for a LOAD command (R180,
R183). -/
def State.leaveLoading (s : State) (origin : Origin) : State :=
  match origin with
  | .reset =>
    ({ s with part := .running }).setHand { s.hand with runRings := true, runNotices := true }
  | .command => { s with part := .halted }

/-- Validation of the complete staging copy, and the end of the load (R177 to R180). -/
def State.finishLoad (s : State) (l : Load) (staging : List Byte) : State :=
  match validate (wordsOf staging) with
  | .error f => s.failLoad f
  | .ok i => ((s.install i).leaveLoading l.origin).completeLoad

/-- A table read's DONE: its 64 bytes fill the staging copy, and the next read is made or the copy is checked (R176). -/
def State.tableReadDone (s : State) (l : Load) (data : List Byte) : State :=
  if l.reads + 1 < Config.tableReads then
    (s.setTl { s.tl with load := some { l with reads := l.reads + 1, staging := l.staging ++ data } }).handJoin
      (tableRead l.addr (l.reads + 1))
  else s.finishLoad l (l.staging ++ data)

/-- A result waits for the table loader (R145). -/
def DownResult.forLoader (x : DownResult) : Bool :=
  match x.entry.purpose with
  | .table => true
  | .pass _ => false
  | .ring _ _ _ => false
  | .notice _ => false

/-- TABLE_READ_RESULT: TL takes the result of its table read (R176). -/
def execTableReadResult (s : State) : Host.Outcome State Fault Refusal :=
  match s.hand.results.find? DownResult.forLoader, s.tl.load with
  | some x, some l =>
    let s1 := s.begin.takeResult DownResult.forLoader
    match x.ending with
    | .done data => .next (s1.tableReadDone l data)
    | .fault => .next (s1.failLoad { code := .readFault, index := some (Fin.ofNat 32 l.reads) })
    | .timeout => .next (s1.failLoad { code := .readFault, index := some (Fin.ofNat 32 l.reads) })
  | _, _ => .next s.begin

end Sys2Proof.Machine
end

