-- ==== Sys2Proof/Machine/Flags.lean ====
section
/-! DEFINITION. The alert causes and the ALERT line (R167). -/

namespace Sys2Proof.Machine

/-- The NOTICES cause (R167). -/
def alertNotices (s : State) : Bool :=
  match s.header.noticeRing with
  | some r => decide (s.header.alertLevel.toNat ≤ (s.ring r).fill)
  | none => !s.nw.queue.isEmpty

/-- The STALL cause (R167). -/
def alertStall (s : State) : Bool := s.nw.writer == .stalled

/-- The LOST cause (R167). -/
def alertLost (s : State) : Bool := s.nw.lost != 0

/-- A load status code that reports a failure (R174). -/
def LoadCode.isFailure : LoadCode → Bool
  | .none => false
  | .ok => false
  | _ => true

/-- The LOAD_FAIL cause (R167, R174). -/
def alertLoadFail (s : State) : Bool := s.tl.code.isFailure

/-- The ALERT line: asserted while at least one cause holds (R167). It holds no state of its own (R168). -/
def alert (s : State) : Bool := alertNotices s || alertStall s || alertLost s || alertLoadFail s

end Sys2Proof.Machine
end

