-- ==== Sys2Proof/Machine/Views.lean ====
section
/-! DEFINITION. The views that the reading commands return, in their layouts (R196 to R200, R208). An item that is absent holds 0 or
0xFF where R205, R207 or R208 says so, and a free value where none does (log 18). A list of items in one word or one field stands from its
lowest bits up: bytes 0, 1, 2, 3, the low and the high half, bits 0 to 3 (log 19). -/

namespace Sys2Proof.Machine

/-- The STATUS view (R197, R208). The alert causes of w2 stand from NOTICES in bit 0 to LOAD_FAIL in bit 3 (log 19). -/
def statusWords (s : State) : List Word :=
  [ wordOf (partCode s.part) (resetCauseCode s.cause) s.straps.tablePage (flagByte s.straps.loadOnReset),
    wordOf (flagByte s.tl.valid) (loadCodeByte s.tl.code) (numByte s.tl.index) (writerCode s.nw.writer),
    wordOf
      (byteOf ((if alertNotices s then 1 else 0) + (if alertStall s then 2 else 0) + (if alertLost s then 4 else 0) +
        (if alertLoadFail s then 8 else 0) + (if alert s then 16 else 0)))
      (byteOf s.nw.queue.length) (s.nw.mask.zeroExtend 8) 0,
    s.nw.lost.zeroExtend 32,
    (match s.tl.load with
      | none => wordOf 0 (s.holeByte 4) 0 0
      | some l => wordOf (originCode l.origin) (byteOf l.reads) 0 0),
    (match s.tl.load with
      | none => s.hole 5
      | some l => l.addr),
    s.timestamp ]

/-- The READ_RING view (R53, R115, R208). WI and WO stand in the low halves of w9 and w10, RI and RO in the high ones (log 19). -/
def ringWords (s : State) (r : RingNo) : List Word :=
  let k := s.ring r
  let c := s.cad r
  let w := s.boundWindow r
  let cursor := fun side : Side => match w with
    | none => (0 : Word)
    | some i => cursorAddr (winBase (s.window i)) k side
  encodeRing k.cfg ++
    [ wordOf (ringStateCode k.state) (numByte w) 0 0,
      BitVec.ofNat 16 k.ri ++ BitVec.ofNat 16 k.wi,
      BitVec.ofNat 16 k.ro ++ BitVec.ofNat 16 k.wo,
      BitVec.ofNat 32 k.fill,
      laneWord k.producer, laneWord k.consumer, cursor .producer, cursor .consumer,
      k.commits, k.releases, k.drops, k.fills, k.strays,
      wordOf (classCode c.cls) (match c.candidate with | none => 0xFF | some x => classCode x) (byteOf c.run) 0,
      timerWord (s.hole 22) c.elapsed, timerWord (s.hole 23) c.last, timerWord (s.hole 24) (c.watch.map held) ]

/-- The number of park entries that wait on a cell (R101). -/
def State.waiters (s : State) (c : CellNo) : Nat := s.hp.list.countP fun e => e.waitsFor (.cell c)

/-- The READ_CELL view (R101, R208). -/
def cellWords (s : State) (c : CellNo) : List Word :=
  let k := s.cell c
  let w := s.coveringWindow c
  [ wordOf (byteOf c.val) (masterByte k.owner) k.gen (masterByte k.lapsed),
    timerWord (s.hole 1) (k.lease.map held),
    wordOf (numByte w) (match w with | none => s.holeCode 2 | some i => flagByte (winWait (s.window i))) (byteOf (s.waiters c)) 0,
    (match w with | none => 0 | some i => winCellAddr (s.window i) c) ]

/-- The cells a master owns (R127, R132). -/
def State.ownedCells (s : State) (m : MasterNo) : List CellNo :=
  (List.finRange 64).filter fun c => (s.cell c).owner == some m

/-- The cells of which a master is the lapsed owner (R132). -/
def State.lapsedCells (s : State) (m : MasterNo) : List CellNo :=
  (List.finRange 64).filter fun c => (s.cell c).lapsed == some m

/-- The READ_MASTER view (R132, R208). -/
def masterWords (s : State) (m : MasterNo) : List Word :=
  let k := s.master m
  let rq := k.outst.request?
  let park : Option EntryNo := match k.outst with
    | .parked _ => (s.hp.list.find? fun e => e.master == m).map (·.slot)
    | _ => none
  let held : Option Woken := match k.outst with
    | .laneHeld _ w => some w
    | _ => none
  [ wordOf (byteOf m.val) (k.prio.zeroExtend 8) (masterStateCode k.state) (phaseCode k.outst.phase),
    wordOf (match rq with | none => s.holeCode 1 | some q => dirCode q.dir)
      (match rq with | none => s.holeByte 4 | some q => byteOf q.len)
      (numByte park) (numByte (held.map (·.ring))),
    (match rq with | none => s.hole 2 | some q => q.addr),
    wordOf (match held with | none => s.holeCode 3 | some w => sideCode w.side) (byteOf (s.ownedCells m).length)
      (byteOf (s.lapsedCells m).length) 0 ]

/-- One entry of the READ_POOL view (R78, R208). The ring direction of an entry that waits on a cell has no stated value (log 18). -/
def entryWords (s : State) (e : ParkEntry) : List Word :=
  [ wordOf (byteOf e.slot.val) (byteOf e.master.val) ((s.master e.master).prio.zeroExtend 8)
      (byteOf ((if e.rq.priv then 1 else 0) + (if e.rq.fetch then 2 else 0))),
    e.rq.addr,
    wordOf (byteOf e.rq.len) (byteOf e.window.val)
      (match e.target with | .ring r _ => byteOf r.val | .cell c => byteOf c.val)
      (byteOf
        ((match e.target with
          | .ring _ side => 2 * (sideCode side).toNat
          | .cell _ => 1 + 2 * (s.holeCode (8 + e.slot.val)).toNat) + 4 * causeCode e.cause + 16 * (dirCode e.rq.dir).toNat)),
    e.seq, timerWord (s.hole e.slot.val) (e.remaining.map held) ]

/-- The READ_POOL view (R78, R208). -/
def poolWords (s : State) : List Word :=
  [BitVec.ofNat 32 s.hp.list.length, s.hp.arrival] ++ s.hp.list.flatMap (entryWords s)

end Sys2Proof.Machine
end

