-- ==== Sys2Proof/Machine/Management.lean ====
section
/-! DEFINITION. The management link: frames, numbering, POLL, and every command as its owning rule checks and applies it (Section 10). -/

namespace Sys2Proof.Machine

/-- What an owning rule answers to a command: a status, the result data, and the state it leaves (R190, R194). -/
structure Reply where
  status : Status
  data : List Byte
  state : State

/-- A command refused by its owner changes no state outside ML (R194). -/
def refuse (s : State) (st : Status) : Reply := { status := st, data := [], state := s }

/-- A command accepted with no result data. -/
def accept (s : State) : Reply := { status := .ok, data := [], state := s }

/-- A command accepted with result data, given as words. -/
def acceptWords (s : State) (ws : List Word) : Reply := { status := .ok, data := bytesOf ws, state := s }

/-- A view returned, with the free values its absent items hold counted as used (log 18). -/
def acceptView (s : State) (ws : List Word) : Reply :=
  { status := .ok, data := bytesOf ws, state := s.countHole }

/-- The next value of the frame counter: from 255 to 1 (R187). -/
def nextFrame (f : Byte) : Byte := if f = 255 then 1 else f + 1

/-- The response record is replaced (R190). -/
def State.respond (s : State) (code frame : Byte) (st : Status) (refusal : Bool) (data : List Byte) : State :=
  s.setMl
    { s.ml with response := some { code := code, frame := frame, status := st, refusal := refusal, data := data } }

/-- The frame takes the next number (R187, R189). -/
def State.numberFrame (s : State) : State := s.setMl { s.ml with frame := nextFrame s.ml.frame }

/-- ML takes a command frame (R188 to R191, R202): none while RESET_N is asserted; a link refusal while a long command is pending;
otherwise the owner checks and applies the command and its response is recorded. -/
def State.takeCommand (s : State) (code : Byte) (owner : State → Reply) : State :=
  if s.resetAsserted then s
  else
    let frame := s.ml.frame
    match s.ml.long with
    | some _ => s.numberFrame.respond code frame .busy true []
    | none =>
      let a := owner s.numberFrame
      a.state.respond code frame a.status false a.data

/-- A short command as the part takes it (R190). -/
def shortCommand (code : Byte) (owner : State → Reply) (s : State) : Host.Outcome State Fault Refusal :=
  .next (s.begin.takeCommand code owner)

/-- A number argument as a ring, window, cell or master number; none outside the range (R209). -/
def numArg (n : Nat) (b : Byte) : Option (Fin n) := if h : b.toNat < n then some ⟨b.toNat, h⟩ else none

/-- A master argument, 1 to 15 (R122, R125, R128, R132). -/
def masterArg (b : Byte) : Option MasterNo := if b = 0 then none else numArg 16 b

/-! ### Reading commands (R196) -/

def ownStatus (s : State) : Reply := acceptView s (statusWords s)

def ownReadHeader (s : State) : Reply := acceptWords s (encodeHeader s.header)

def ownReadWindow (b : Byte) (s : State) : Reply :=
  match numArg 32 b with
  | some w => acceptWords s (s.window w).toList
  | none => refuse s .badArg

def ownReadRing (b : Byte) (s : State) : Reply :=
  match numArg 8 b with
  | some r => acceptView s (ringWords s r)
  | none => refuse s .badArg

def ownReadCell (b : Byte) (s : State) : Reply :=
  match numArg 64 b with
  | some c => acceptView s (cellWords s c)
  | none => refuse s .badArg

def ownReadMaster (b : Byte) (s : State) : Reply :=
  match masterArg b with
  | some m => acceptView s (masterWords s m)
  | none => refuse s .badArg

def ownReadPool (s : State) : Reply := acceptView s (poolWords s)

/-! ### The live table -/

/-- WRITE_HEADER (R22): HALTED, then the ranges, then the notice ring's binding. -/
def ownWriteHeader (w : Tbl Word 14) (s : State) : Reply :=
  if s.part ≠ .halted then refuse s .badState
  else
    match decodeHeader s.header.format s.header.balance w with
    | none => refuse s .badArg
    | some h =>
      if noticeBound s.windows h.noticeRing then
        accept (({ s with header := h }).setHand { s.hand with headerCopy := true })
      else refuse s .conflict

/-- The size that a ring's configuration gives its window (R10, R24). -/
def RingConfig.bytes (c : RingConfig) : Nat := c.slotSize * c.slotCount

/-- The consistency check of WRITE_WINDOW (R19): true when the edit breaks a condition. -/
def State.editConflicts (s : State) (w : WindowNo) (e : WindowWords) : Bool :=
  (List.finRange 32).any (fun j =>
      j != w && (winOverlap e (s.window j) || winSameRing e (s.window j) || winCellsOverlap e (s.window j))) ||
    (winValid e && winKind e == .ring && winSize e != (s.ring (winRing e)).cfg.bytes) ||
    !noticeBound (s.windows.put w e) s.header.noticeRing

/-- The dependent state of an entry (R20). -/
def State.entryInUse (s : State) (e : WindowWords) : Bool :=
  winValid e &&
    match winKind e with
    | .ring =>
      (s.ring (winRing e)).state != .off || (s.ring (winRing e)).producer != .free ||
        (s.ring (winRing e)).consumer != .free
    | .claim => (List.finRange 64).any fun c => winHasCell e c && (s.cell c).owner.isSome
    | .pass => false
    | .block => false

/-- Whether a park entry records the window (R20). -/
def State.windowWaitedFor (s : State) (w : WindowNo) : Bool := s.hp.list.any fun e => e.window == w

/-- Whether an edit in RUNNING is BUSY: either entry, where valid, has dependent state (R20). -/
def State.editBusy (s : State) (w : WindowNo) (e : WindowWords) : Bool :=
  s.entryInUse (s.window w) || s.entryInUse e ||
    ((winValid (s.window w) || winValid e) && s.windowWaitedFor w)

/-- WRITE_WINDOW (R18 to R21). -/
def ownWriteWindow (b : Byte) (e : WindowWords) (s : State) : Reply :=
  if s.part ≠ .running ∧ s.part ≠ .halted then refuse s .badState
  else
    match numArg 32 b with
    | none => refuse s .badArg
    | some w =>
      if !winWellFormed e then refuse s .badArg
      else if s.editConflicts w e then refuse s .conflict
      else if s.part = .running ∧ s.editBusy w e = true then refuse s .busy
      else accept (s.setWindow w e)

/-! ### Rings -/

/-- Whether a ring is bound to a window whose size is not that of the configuration (R10, R50). -/
def State.sizeConflicts (s : State) (r : RingNo) (c : RingConfig) : Bool :=
  match s.boundWindow r with
  | some w => winSize (s.window w) != c.bytes
  | none => false

/-- WRITE_RING (R50). -/
def ownWriteRing (b : Byte) (rec : RingWords) (s : State) : Reply :=
  if s.part ≠ .running ∧ s.part ≠ .halted then refuse s .badState
  else
    match numArg 8 b, decodeRingConfig rec with
    | some r, some c =>
      if (s.ring r).state ≠ .off then refuse s .badState
      else if s.sizeConflicts r c then refuse s .conflict
      else if (s.ring r).producer ≠ .free ∨ (s.ring r).consumer ≠ .free then refuse s .busy
      else accept ((s.setRing r { (s.ring r).zeroCursors with cfg := c }).stopWatch r)
    | _, _ => refuse s .badArg

/-- RING_START (R47). -/
def ownRingStart (b : Byte) (s : State) : Reply :=
  match numArg 8 b with
  | none => refuse s .badArg
  | some r =>
    if s.part ≠ .running ∨ (s.ring r).state = .running ∨ (s.ring r).cfg = RingConfig.unconfigured then refuse s .badState
    else if (s.ring r).producer ≠ .free ∨ (s.ring r).consumer ≠ .free then refuse s .busy
    else
      accept (((s.setRing r { (s.ring r).zeroCursors.zeroCounters with state := .running }).setHand
        { s.hand with cadStart := s.hand.cadStart.put r true }).wakeRequests r)

/-- RING_STOP (R48). -/
def ownRingStop (b : Byte) (s : State) : Reply :=
  match numArg 8 b with
  | none => refuse s .badArg
  | some r =>
    if s.part ≠ .running ∨ (s.ring r).state = .off then refuse s .badState
    else
      accept ((s.setRing r { (s.ring r).detachLanes with state := .off }).setHand
        { s.hand with cancelStop := s.hand.cancelStop.put r true, cadStop := s.hand.cadStop.put r true })

/-! ### Cells and masters -/

/-- FREE_CELL (R97). -/
def ownFreeCell (b : Byte) (s : State) : Reply :=
  match numArg 64 b with
  | none => refuse s .badArg
  | some c =>
    if s.part ≠ .running then refuse s .badState
    else
      match (s.cell c).owner with
      | none => refuse s .badState
      | some o => accept (s.forceEnd .forcedFree c o)

/-- SET_PRIORITY (R122). -/
def ownSetPriority (b p : Byte) (s : State) : Reply :=
  match masterArg b with
  | none => refuse s .badArg
  | some m =>
    if p.toNat ≤ 3 then accept (s.setMaster m { s.master m with prio := p.extractLsb' 0 2 }) else refuse s .badArg

/-- Whether a queue entry is master `m`'s. -/
def QueueEntry.ofMaster (m : MasterNo) (e : QueueEntry) : Bool := e.source == .master m

/-- A queued request leaves DN, whether its join has been taken or not (R146; log 6). -/
def State.removeQueued (s : State) (m : MasterNo) : State :=
  (s.setDn { s.dn with queue := s.dn.queue.filter fun e => !e.ofMaster m }).setHand
    { s.hand with joins := s.hand.joins.filter fun e => !e.ofMaster m }

/-- The lane of a withdrawn ring access is made FREE, with the wake requests (R46, R146). -/
def State.releaseWithdrawn (s : State) (e : QueueEntry) : State :=
  match e.purpose with
  | .ring r side _ => (s.setLane r side ((s.ring r).lane side).release).wakeRequests r
  | .pass _ => s
  | .notice _ => s
  | .table => s

/-- A dropped master's queued request is withdrawn and answered FAULT DROPPED (R126, R146). -/
def State.withdraw (s : State) (m : MasterNo) : State :=
  let s1 := (s.removeQueued m).answer m (.fault .dropped)
  match (s.dn.queue ++ s.hand.joins).find? (QueueEntry.ofMaster m) with
  | some e => s1.releaseWithdrawn e
  | none => s1

/-- The treatment of the dropped master's outstanding request by its phase (R126). -/
def State.dropRequest (s : State) (m : MasterNo) : State :=
  match (s.master m).outst with
  | .queued _ => s.withdraw m
  | .parked _ => s.cancelEntries .dropped fun e => e.master == m
  | .none => s
  | .admitting _ => s
  | .inFlight _ => s
  | .laneHeld _ _ => s

/-- The FENCE notice (R127). -/
def State.fenceNotice (s : State) (m : MasterNo) : Notice :=
  { kind := .fence, master := m, window := none, subject := .none, reason := none, addr := none,
    detail := .fence (s.master m).outst.phase (s.ownedCells m).length }

/-- DROP_MASTER (R125, R126): the fence, the FENCE notice, the ownerships that CU is told to end, and the request by its phase. -/
def ownDropMaster (b : Byte) (s : State) : Reply :=
  match masterArg b with
  | none => refuse s .badArg
  | some m =>
    if (s.part ≠ .running ∧ s.part ≠ .halted) ∨ (s.master m).state = .fenced then refuse s .badState
    else
      let s1 := (s.setMaster m { s.master m with state := .fenced }).giveNotice (s.fenceNotice m)
      let s2 := s1.setHand { s1.hand with drops := s1.hand.drops ++ (s.ownedCells m).map fun c => (m, c) }
      accept (s2.dropRequest m)

/-- REOPEN_MASTER (R128). -/
def ownReopenMaster (b : Byte) (s : State) : Reply :=
  match masterArg b with
  | none => refuse s .badArg
  | some m =>
    if (s.part ≠ .running ∧ s.part ≠ .halted) ∨ (s.master m).state = .opened then refuse s .badState
    else accept (s.setMaster m { s.master m with state := .opened })

/-! ### Notices -/

/-- TAKE_NOTICE (R165): the head record with the current lost count, or "none". -/
def ownTakeNotice (s : State) : Reply :=
  match s.nw.queue with
  | [] => accept s
  | rec :: rest =>
    { status := .ok, data := recordBytes { rec with lost := s.nw.lost }, state := s.setNw { s.nw with queue := rest } }

/-- SET_MASK (R166); bit 7 must hold 0 (R205; log 28). -/
def ownSetMask (b : Byte) (s : State) : Reply :=
  if b.getLsbD 7 then refuse s .badArg else accept (s.setNw { s.nw with mask := b.extractLsb' 0 7 })

/-- CLEAR_STALL (R163). -/
def ownClearStall (s : State) : Reply :=
  match s.nw.writer with
  | .stalled => accept (s.setNw { s.nw with writer := .idle }).nwEvaluate
  | .idle => refuse s .badState
  | .writing _ => refuse s .badState

/-- CLEAR_LOST (R166). -/
def ownClearLost (s : State) : Reply := accept (s.setNw { s.nw with lost := 0 })

/-! ### The part -/

/-- STOP (R184): HALTED, and the blocks are told. -/
def ownStop (s : State) : Reply :=
  if s.part ≠ .running then refuse s .badState
  else
    accept (({ s with part := .halted }).setHand
      { s.hand with stopRings := true, stopPool := true, stopCells := true, cadStop := s.departures })

/-- START (R183): RUNNING, and RT and NW are told. -/
def ownStart (s : State) : Reply :=
  if s.part ≠ .halted ∨ s.tl.valid = false then refuse s .badState
  else accept (({ s with part := .running }).setHand { s.hand with runRings := true, runNotices := true })

/-- The end of a taking of an accepted long command: pending, with the response PENDING (R190). -/
def Reply.pend (a : Reply) (c : LongCommand) (frame : Byte) : Reply :=
  { status := .pending, data := [], state := a.state.setMl { a.state.ml with long := some { command := c, frame := frame } } }

/-- LOAD (R181): the address is checked before the part state. `frame` is the number the command's frame has taken. -/
def ownLoad (addr : Word) (frame : Byte) (s : State) : Reply :=
  if addr.toNat % 64 ≠ 0 ∨ 2 ^ 32 < addr.toNat + 832 then refuse s .badArg
  else if s.part ≠ .halted then refuse s .badState
  else (accept (s.beginLoad .command addr)).pend .load frame

/-- RESET (R173, R201): accepted at once, it begins the soft reset and is pending. `frame` is the number the command's frame has taken. -/
def ownReset (straps : Straps) (frame : Byte) (s : State) : Reply := (accept (s.beginSoftReset straps)).pend .reset frame

/-- The soft reset ends (R173, step 3): the straps are sampled, the cause is COMMAND, the part goes to LOADING or HALTED, and the pending
RESET completes with OK (R193). -/
def State.endSoftReset (s : State) (frame : Byte) : State :=
  (s.endReset .command).setMl
    { s.ml with
      response := some { code := 0x18, frame := frame, status := .ok, refusal := false, data := [] }, long := none }

/-- What the part does when no command waits: a soft reset in progress ends; otherwise nothing. The table has no row for the end of a soft
reset, so it is what a step does on an empty queue (DESIGN CHOICE, log 8). -/
def State.idle (s : State) : State :=
  match s.ml.long with
  | some p =>
    match p.command with
    | .reset => s.begin.endSoftReset p.frame
    | .load => s
  | none => s

/-! ### The commands -/

/-- COMMAND_FRAME_MALFORMED: a frame that is not well formed is numbered and answered BAD_ARG (R188, R209). A frame that is well formed
belongs to another row (log 4). -/
def execCommandFrameMalformed (code : Byte) (args : List Byte) (s : State) : Host.Outcome State Fault Refusal :=
  if frameMalformed code args then .next (s.begin.takeCommand code fun t => refuse t .badArg)
  else .fault .frameWellFormed

/-- POLL, with `n` bytes clocked after its code byte: as much of the response record is shifted out, with 0 after its last byte (R192, R208);
a link refusal turns back into the pending command's PENDING (R192). No record is returned while RESET_N is asserted (R202). -/
def execPoll (s : State) (n : Nat := 0) : Host.Outcome State Fault Refusal :=
  if s.resetAsserted then .next s.begin
  else
    let s1 := s.begin.emit (.mdo (pollBytes s.ml.response n))
    match s.ml.response, s.ml.long with
    | some r, some p =>
      if r.status = .busy ∧ r.refusal = true then
        .next (s1.respond (match p.command with | .load => 0x17 | .reset => 0x18) p.frame .pending false [])
      else .next s1
    | _, _ => .next s1

/-- STATUS (R197). -/
def execStatus (s : State) : Host.Outcome State Fault Refusal := shortCommand 0x01 ownStatus s

/-- READ_HEADER (R198). -/
def execReadHeader (s : State) : Host.Outcome State Fault Refusal := shortCommand 0x02 ownReadHeader s

/-- WRITE_HEADER (R22). -/
def execWriteHeader (w : Tbl Word 14) (s : State) : Host.Outcome State Fault Refusal :=
  shortCommand 0x03 (ownWriteHeader w) s

/-- READ_WINDOW (R199). -/
def execReadWindow (b : Byte) (s : State) : Host.Outcome State Fault Refusal := shortCommand 0x04 (ownReadWindow b) s

/-- WRITE_WINDOW (R18). -/
def execWriteWindow (b : Byte) (e : WindowWords) (s : State) : Host.Outcome State Fault Refusal :=
  shortCommand 0x05 (ownWriteWindow b e) s

/-- READ_RING (R53). -/
def execReadRing (b : Byte) (s : State) : Host.Outcome State Fault Refusal := shortCommand 0x06 (ownReadRing b) s

/-- WRITE_RING (R50). -/
def execWriteRing (b : Byte) (rec : RingWords) (s : State) : Host.Outcome State Fault Refusal :=
  shortCommand 0x07 (ownWriteRing b rec) s

/-- RING_START (R47). -/
def execRingStart (b : Byte) (s : State) : Host.Outcome State Fault Refusal := shortCommand 0x08 (ownRingStart b) s

/-- RING_STOP (R48). -/
def execRingStop (b : Byte) (s : State) : Host.Outcome State Fault Refusal := shortCommand 0x09 (ownRingStop b) s

/-- READ_CELL (R101). -/
def execReadCell (b : Byte) (s : State) : Host.Outcome State Fault Refusal := shortCommand 0x0A (ownReadCell b) s

/-- FREE_CELL (R97). -/
def execFreeCell (b : Byte) (s : State) : Host.Outcome State Fault Refusal := shortCommand 0x0B (ownFreeCell b) s

/-- READ_MASTER (R132). -/
def execReadMaster (b : Byte) (s : State) : Host.Outcome State Fault Refusal := shortCommand 0x0C (ownReadMaster b) s

/-- SET_PRIORITY (R122). -/
def execSetPriority (b p : Byte) (s : State) : Host.Outcome State Fault Refusal :=
  shortCommand 0x0D (ownSetPriority b p) s

/-- DROP_MASTER (R125). -/
def execDropMaster (b : Byte) (s : State) : Host.Outcome State Fault Refusal := shortCommand 0x0E (ownDropMaster b) s

/-- REOPEN_MASTER (R128). -/
def execReopenMaster (b : Byte) (s : State) : Host.Outcome State Fault Refusal :=
  shortCommand 0x0F (ownReopenMaster b) s

/-- READ_POOL (R78). -/
def execReadPool (s : State) : Host.Outcome State Fault Refusal := shortCommand 0x10 ownReadPool s

/-- TAKE_NOTICE (R165). -/
def execTakeNotice (s : State) : Host.Outcome State Fault Refusal := shortCommand 0x11 ownTakeNotice s

/-- SET_MASK (R166). -/
def execSetMask (b : Byte) (s : State) : Host.Outcome State Fault Refusal := shortCommand 0x12 (ownSetMask b) s

/-- CLEAR_STALL (R163). -/
def execClearStall (s : State) : Host.Outcome State Fault Refusal := shortCommand 0x13 ownClearStall s

/-- CLEAR_LOST (R166). -/
def execClearLost (s : State) : Host.Outcome State Fault Refusal := shortCommand 0x14 ownClearLost s

/-- STOP (R184). -/
def execStop (s : State) : Host.Outcome State Fault Refusal := shortCommand 0x15 ownStop s

/-- START (R183). -/
def execStart (s : State) : Host.Outcome State Fault Refusal := shortCommand 0x16 ownStart s

/-- LOAD (R181): a long command, PENDING until its load ends (R190). -/
def execLoad (addr : Word) (s : State) : Host.Outcome State Fault Refusal :=
  .next (s.begin.takeCommand 0x17 (ownLoad addr s.ml.frame))

/-- RESET (R173, R201): a long command, PENDING until its soft reset ends (R190). -/
def execReset (straps : Straps) (s : State) : Host.Outcome State Fault Refusal :=
  .next (s.begin.takeCommand 0x18 (ownReset straps s.ml.frame))

end Sys2Proof.Machine
end

