-- ==== Sys2Proof/Machine/PoolEvents.lean ====
section
/-! DEFINITION. The time base's tick (R185) and the hold pool's expiries and cancellations (3.3, 3.5, 3.6). -/

namespace Sys2Proof.Machine

/-- HP's tick (R64). -/
def ParkEntry.tick (e : ParkEntry) : ParkEntry := { e with remaining := countDown e.remaining }

/-- CU's tick: the divider, and a millisecond step when it would pass 999 (R94). -/
def LeaseClock.tick (k : LeaseClock) : LeaseClock :=
  if k.divider + 1 < Config.ticksPerMillisecond then { k with divider := k.divider + 1 }
  else { divider := 0, msDue := k.msDue + 1 }

/-- DN's tick: the response timer while ISSUED, the settling time while SETTLING (R138, R149). -/
def Link.tick : Link → Link
  | .idle => .idle
  | .issued f => .issued { f with timer := if f.timer = 0 then 0 else f.timer - 1 }
  | .settling tag t => .settling tag (if t = 0 then 0 else t - 1)

/-- CM's tick for a monitored ring: the elapsed time saturates, the watch timer runs down (R105, R109). -/
def Cadence.tick (k : Cadence) : Cadence :=
  { k with
    elapsed := k.elapsed.map fun e => if e = 65535 then 65535 else e + 1,
    watch := countDown k.watch }

/-- TICK: one microsecond of the time base (R185), taken by every block in one step (log 37). While RESET_N is asserted the time base gives no tick (R186). -/
def execTick (s : State) : Host.Outcome State Fault Refusal :=
  if s.resetAsserted then .next s.begin
  else
    .next
      { s.begin with
        timestamp := s.timestamp + 1,
        hp := { s.hp with list := s.hp.list.map ParkEntry.tick },
        cu := s.cu.tick,
        dn := { s.dn with link := s.dn.link.tick },
        cadence := Tbl.tabulate fun r => if (s.ring r).monitored then (s.cad r).tick else s.cad r }

/-- The entry numbered `i`, when it is occupied. -/
def State.entry (s : State) (i : EntryNo) : Option ParkEntry := s.hp.list.find? fun e => e.slot == i

/-- Entry `i` leaves the pool and the pool list. -/
def State.removeEntry (s : State) (i : EntryNo) : State :=
  s.setHp { s.hp with list := s.hp.list.eraseP fun e => e.slot == i }

/-- RING_PARK_EXPIRY: the remaining time of ring entry `i` has reached 0 (R70). -/
def execRingParkExpiry (i : EntryNo) (s : State) : Host.Outcome State Fault Refusal :=
  match s.entry i with
  | some e =>
    match e.target with
    | .ring r _ =>
      if e.remaining = some 0 then
        .next ((s.begin.removeEntry i).faultWithNotice e.master e.rq.addr .holdExpired (some e.window) (.ring r))
      else .next s.begin
    | .cell _ => .next s.begin
  | none => .next s.begin

/-- CLAIM_PARK_EXPIRY: the remaining time of claim entry `i` has reached 0; DONE with the refusal reply word, waited flag set (R71). -/
def execClaimParkExpiry (i : EntryNo) (s : State) : Host.Outcome State Fault Refusal :=
  match s.entry i with
  | some e =>
    match e.target with
    | .ring _ _ => .next s.begin
    | .cell c =>
      if e.remaining = some 0 then .next ((s.begin.removeEntry i).claimReply e.master c true) else .next s.begin
  | none => .next s.begin

/-- POOL_CANCEL_RING_STOP: HP answers every entry of a stopped ring FAULT RING_OFF with a FAULT notice for each (R72). -/
def execPoolCancelRingStop (r : RingNo) (s : State) : Host.Outcome State Fault Refusal :=
  if s.hand.cancelStop.nth r then
    .next ((s.begin.setHand { s.hand with cancelStop := s.hand.cancelStop.put r false }).cancelRing .ringOff r)
  else .next s.begin

/-- POOL_CANCEL_FREEZE: HP answers every entry of a frozen ring FAULT RING_FROZEN with a FAULT notice for each (R73). -/
def execPoolCancelFreeze (r : RingNo) (s : State) : Host.Outcome State Fault Refusal :=
  if s.hand.cancelFreeze.nth r then
    .next ((s.begin.setHand { s.hand with cancelFreeze := s.hand.cancelFreeze.put r false }).cancelRing .ringFrozen r)
  else .next s.begin

/-- STOP_POOL: HP takes STOP and answers every occupied entry FAULT STOPPED, without notices (R75). -/
def execStopPool (s : State) : Host.Outcome State Fault Refusal :=
  if s.hand.stopPool then
    .next ((s.begin.setHand { s.hand with stopPool := false }).cancelEntries .stopped fun _ => true)
  else .next s.begin

end Sys2Proof.Machine
end

