-- ==== Sys2Proof/WellFormed.lean ====
section
/-! DEFINITION. Which terms of `Instr` the links and the part can carry. -/

namespace Sys2Proof

/-- The shapes the upstream link has an encoding for (R116). -/
def Request.wf (rq : Request) : Bool :=
  decide (rq.addr.toNat % 4 = 0) && decide (rq.len % 4 = 0) && decide (4 ≤ rq.len) &&
    decide (rq.addr.toNat % 64 + rq.len ≤ 64) &&
    decide (rq.data.length = match rq.dir with | .read => 0 | .write => rq.len)

/-- A source of downstream work: masters 1 to 15, the notice writer and the table loader (R135). -/
def Source.wf : Source → Bool
  | .master m => m != 0
  | .noticeWriter => true
  | .tableLoader => true

/-- A well-formed command. -/
def Instr.wf : Instr → Bool
  | .upstreamRequest _ rq => rq.wf
  | .replay m => m != 0
  | .queueJoin src => src.wf
  | .downstreamDone _ data => decide (data.length % 4 = 0) && decide (data.length ≤ 64)
  | .passResult m => m != 0
  | .dropOwnerships m _ => m != 0
  | .commandFrameMalformed code args => frameMalformed code args
  | .admission _ => true
  | .downstreamRetry _ => true
  | .downstreamFault _ => true
  | .responseTimeout => true
  | .settlingEnd => true
  | .ringProducerDone _ => true
  | .ringConsumerDone _ => true
  | .ringAccessFailed _ _ => true
  | .noticeWriteResult => true
  | .cadenceCommit _ => true
  | .watchExpiry _ => true
  | .tick => true
  | .ringParkExpiry _ => true
  | .claimParkExpiry _ => true
  | .millisecondStep => true
  | .leaseExpiry _ => true
  | .noticeHandoff _ => true
  | .tableReadResult => true
  | .runEntryRings => true
  | .runEntryNotices => true
  | .stopRings => true
  | .stopPool => true
  | .stopCells => true
  | .stopCadence _ => true
  | .cadenceRingStart _ => true
  | .poolCancelRingStop _ => true
  | .poolCancelFreeze _ => true
  | .headerCopy => true
  | .resetNAssert => true
  | .resetNRelease _ => true
  | .poll _ => true
  | .status => true
  | .readHeader => true
  | .writeHeader _ => true
  | .readWindow _ => true
  | .writeWindow _ _ => true
  | .readRing _ => true
  | .writeRing _ _ => true
  | .ringStart _ => true
  | .ringStop _ => true
  | .readCell _ => true
  | .freeCell _ => true
  | .readMaster _ => true
  | .setPriority _ _ => true
  | .dropMaster _ => true
  | .reopenMaster _ => true
  | .readPool => true
  | .takeNotice => true
  | .setMask _ => true
  | .clearStall => true
  | .clearLost => true
  | .stop => true
  | .start => true
  | .load _ => true
  | .reset _ => true

end Sys2Proof
end

