-- ==== Sys2Proof/Machine/Upstream.lean ====
section
/-! DEFINITION. The upstream port and the window matcher: acceptance (R117), admission (R12) and replay (R123). -/

namespace Sys2Proof.Machine

/-- The outcome of the admission checks (R12). -/
inductive Verdict where
  | fault (reason : Reason) (window : Option WindowNo)
  | forward (window : Option WindowNo)
  | ring (w : WindowNo) (r : RingNo)
  | claim (w : WindowNo) (c : CellNo)
  deriving DecidableEq, Repr

/-- The window of an address (R11). -/
def State.findWindow (s : State) (a : Word) : Option WindowNo :=
  (List.finRange 32).find? fun w => winValid (s.window w) && winHolds (s.window w) a

/-- Whether a window accepts a request's class marks (R8). A BLOCK window does not read the fetch-allowed flag. -/
def classAccepted (w : WindowWords) (rq : Request) : Bool :=
  (!winPriv w || rq.priv) &&
    (!rq.fetch ||
      match winKind w with
      | .pass => winFetch w
      | .ring => false
      | .claim => false
      | .block => true)

/-- Step 6 of admission: the window kind (R6, R12). -/
def State.judgeKind (s : State) (m : MasterNo) (rq : Request) (w : WindowNo) : Verdict :=
  match winKind (s.window w) with
  | .block => .fault .blocked (some w)
  | .pass => if winMember (s.window w) rq.dir m then .forward (some w) else .fault .access (some w)
  | .ring => .ring w (winRing (s.window w))
  | .claim => .claim w (winCellOf (s.window w) rq.addr)

/-- The admission checks in their order (R12). -/
def State.judge (s : State) (m : MasterNo) (rq : Request) : Verdict :=
  if s.part ≠ .running then .fault .notReady none
  else if m = 0 then .fault .badMaster none
  else if (s.master m).state = .fenced then .fault .fenced none
  else
    match s.findWindow rq.addr with
    | none =>
      match s.header.policy with
      | .open => .forward none
      | .closed => .fault .noWindow none
    | some w => if classAccepted (s.window w) rq then s.judgeKind m rq w else .fault .cls (some w)

/-- A FAULT at admission, with its notice but for NOT_READY (R13). -/
def State.admissionFault (s : State) (m : MasterNo) (rq : Request) (reason : Reason) (w : Option WindowNo) : State :=
  if reason = .notReady then s.answer m (.fault .notReady) else s.faultWithNotice m rq.addr reason w .none

/-- Admission with the handling that follows it, one step for the request (R118). `via` is what a woken request carries; a
replay that does not reach the lane check of its reserved lane frees it (R16, R45). -/
def State.takeAdmission (s : State) (m : MasterNo) (rq : Request) (via : Option Woken) : State :=
  match s.judge m rq with
  | .fault reason w => (s.admissionFault m rq reason w).dropReservation m via
  | .forward w => (s.forward m rq (.pass w)).dropReservation m via
  | .ring w r => s.ringHandle m rq w r via
  | .claim w c => (s.claimHandle m rq w c via).dropReservation m via

/-- UPSTREAM_REQUEST: UP accepts the request when nothing of the master is outstanding and the part is not in RESET; otherwise the
link holds it off (R117). A request of a shape the link has no encoding for stops the model (R116; log 4). -/
def execUpstreamRequest (m : MasterNo) (rq : Request) (s : State) : Host.Outcome State Fault Refusal :=
  if rq.wf then
    if (s.master m).outst = .none ∧ s.part ≠ .reset then
      .next (s.begin.setMaster m { s.master m with outst := .admitting rq })
    else .next s.begin
  else .fault .noSuchRequest

/-- ADMISSION: WM takes master `m`'s accepted request (R12, R118). -/
def execAdmission (m : MasterNo) (s : State) : Host.Outcome State Fault Refusal :=
  match (s.master m).outst with
  | .admitting rq => .next (s.begin.takeAdmission m rq none)
  | _ => .next s.begin

/-- REPLAY: WM takes master `m`'s woken ring request for admission again (R16, R45, R123). -/
def execReplay (m : MasterNo) (s : State) : Host.Outcome State Fault Refusal :=
  match (s.master m).outst with
  | .laneHeld rq k => .next (s.begin.takeAdmission m rq (some k))
  | _ => .next s.begin

/-- A result waits for UP when it is the one of master `m`'s PASS request (R144). -/
def DownResult.forPass (m : MasterNo) (x : DownResult) : Bool :=
  x.entry.source == .master m &&
    match x.entry.purpose with
    | .pass _ => true
    | .ring _ _ _ => false
    | .notice _ => false
    | .table => false

/-- PASS_RESULT: UP answers a PASS request with its downstream result, with a FAULT notice for a failure (R14, R144). -/
def execPassResult (m : MasterNo) (s : State) : Host.Outcome State Fault Refusal :=
  match s.hand.results.find? (DownResult.forPass m) with
  | some x =>
    let s1 := (s.begin.takeResult (DownResult.forPass m)).answerSource x.entry.source x.ending.toAnswer
    if x.ending.isDone then .next s1 else .next (s1.noticeSource x.entry x.ending .none)
  | none => .next s.begin

end Sys2Proof.Machine
end

