-- ==== Sys2Proof/Machine/Dispatch.lean ====
section
/-! DEFINITION. One arm per command, in the order of the opcode table. -/

namespace Sys2Proof.Machine

/-- The effect of a command on everything but the queue. -/
def exec (i : Instr) (s : State) : Host.Outcome State Fault Refusal :=
  match i with
  | .upstreamRequest m rq => Sys2Proof.Machine.execUpstreamRequest m rq s
  | .admission m => Sys2Proof.Machine.execAdmission m s
  | .replay m => Sys2Proof.Machine.execReplay m s
  | .queueJoin src => Sys2Proof.Machine.execQueueJoin src s
  | .downstreamDone tag data => Sys2Proof.Machine.execDownstreamDone tag data s
  | .downstreamRetry tag => Sys2Proof.Machine.execDownstreamRetry tag s
  | .downstreamFault tag => Sys2Proof.Machine.execDownstreamFault tag s
  | .responseTimeout => Sys2Proof.Machine.execResponseTimeout s
  | .settlingEnd => Sys2Proof.Machine.execSettlingEnd s
  | .passResult m => Sys2Proof.Machine.execPassResult m s
  | .ringProducerDone r => Sys2Proof.Machine.execRingProducerDone r s
  | .ringConsumerDone r => Sys2Proof.Machine.execRingConsumerDone r s
  | .ringAccessFailed r side => Sys2Proof.Machine.execRingAccessFailed r side s
  | .noticeWriteResult => Sys2Proof.Machine.execNoticeWriteResult s
  | .cadenceCommit r => Sys2Proof.Machine.execCadenceCommit r s
  | .watchExpiry r => Sys2Proof.Machine.execWatchExpiry r s
  | .tick => Sys2Proof.Machine.execTick s
  | .ringParkExpiry e => Sys2Proof.Machine.execRingParkExpiry e s
  | .claimParkExpiry e => Sys2Proof.Machine.execClaimParkExpiry e s
  | .millisecondStep => Sys2Proof.Machine.execMillisecondStep s
  | .leaseExpiry c => Sys2Proof.Machine.execLeaseExpiry c s
  | .noticeHandoff n => Sys2Proof.Machine.execNoticeHandoff n s
  | .tableReadResult => Sys2Proof.Machine.execTableReadResult s
  | .runEntryRings => Sys2Proof.Machine.execRunEntryRings s
  | .runEntryNotices => Sys2Proof.Machine.execRunEntryNotices s
  | .stopRings => Sys2Proof.Machine.execStopRings s
  | .stopPool => Sys2Proof.Machine.execStopPool s
  | .stopCells => Sys2Proof.Machine.execStopCells s
  | .stopCadence r => Sys2Proof.Machine.execStopCadence r s
  | .cadenceRingStart r => Sys2Proof.Machine.execCadenceRingStart r s
  | .poolCancelRingStop r => Sys2Proof.Machine.execPoolCancelRingStop r s
  | .poolCancelFreeze r => Sys2Proof.Machine.execPoolCancelFreeze r s
  | .dropOwnerships m c => Sys2Proof.Machine.execDropOwnerships m c s
  | .headerCopy => Sys2Proof.Machine.execHeaderCopy s
  | .resetNAssert => Sys2Proof.Machine.execResetNAssert s
  | .resetNRelease straps => Sys2Proof.Machine.execResetNRelease straps s
  | .commandFrameMalformed code args => Sys2Proof.Machine.execCommandFrameMalformed code args s
  | .poll n => Sys2Proof.Machine.execPoll s n
  | .status => Sys2Proof.Machine.execStatus s
  | .readHeader => Sys2Proof.Machine.execReadHeader s
  | .writeHeader w => Sys2Proof.Machine.execWriteHeader w s
  | .readWindow w => Sys2Proof.Machine.execReadWindow w s
  | .writeWindow w entry => Sys2Proof.Machine.execWriteWindow w entry s
  | .readRing r => Sys2Proof.Machine.execReadRing r s
  | .writeRing r rec => Sys2Proof.Machine.execWriteRing r rec s
  | .ringStart r => Sys2Proof.Machine.execRingStart r s
  | .ringStop r => Sys2Proof.Machine.execRingStop r s
  | .readCell c => Sys2Proof.Machine.execReadCell c s
  | .freeCell c => Sys2Proof.Machine.execFreeCell c s
  | .readMaster m => Sys2Proof.Machine.execReadMaster m s
  | .setPriority m p => Sys2Proof.Machine.execSetPriority m p s
  | .dropMaster m => Sys2Proof.Machine.execDropMaster m s
  | .reopenMaster m => Sys2Proof.Machine.execReopenMaster m s
  | .readPool => Sys2Proof.Machine.execReadPool s
  | .takeNotice => Sys2Proof.Machine.execTakeNotice s
  | .setMask mask => Sys2Proof.Machine.execSetMask mask s
  | .clearStall => Sys2Proof.Machine.execClearStall s
  | .clearLost => Sys2Proof.Machine.execClearLost s
  | .stop => Sys2Proof.Machine.execStop s
  | .start => Sys2Proof.Machine.execStart s
  | .load addr => Sys2Proof.Machine.execLoad addr s
  | .reset straps => Sys2Proof.Machine.execReset straps s

end Sys2Proof.Machine
end

