-- ==== Sys2Proof/Safety.lean ====
section
/-! DEFINITION. The terms the statements are made in: what a step shows at the links, the conditions under which a command
has its own effect, and the laws of the part. -/

namespace Sys2Proof.Machine

/-! ### What a step shows -/

/-- `s` after a step that drives nothing on the links. -/
def State.quiet (s : State) : State := { s with out := [] }

/-- `s` after UP has answered master `m` and nothing else has been driven (R119): the answer on the link, the phase NONE, the
record empty. -/
def State.answered (s : State) (m : MasterNo) (a : Answer) : State :=
  { s with masters := s.masters.put m { s.master m with outst := .none }, out := [.answer m a] }

/-- `s` with one more notice handed to NW (R153). -/
def State.noticed (s : State) (n : Notice) : State :=
  { s with hand := { s.hand with notices := s.hand.notices ++ [n] } }

/-- `s` with master `m`'s request in another phase, and nothing driven. -/
def State.phased (s : State) (m : MasterNo) (o : Outstanding) : State :=
  { s with masters := s.masters.put m { s.master m with outst := o }, out := [] }

/-- `s` with one more piece of work handed to DN (R136). -/
def State.joined (s : State) (e : QueueEntry) : State :=
  { s with hand := { s.hand with joins := s.hand.joins ++ [e] } }

/-- The issue queue entry of a master's forwarded request (R14, R36). -/
def forwarded (m : MasterNo) (rq : Request) (p : Purpose) : QueueEntry :=
  { source := .master m, purpose := p, dir := rq.dir, addr := rq.addr, len := rq.len, data := rq.data }

/-- The number of answers to master `m` in what a step drives. -/
def answersTo (m : MasterNo) (out : List Output) : Nat :=
  out.countP fun o => match o with
    | .answer q _ => q == m
    | .present _ _ _ _ _ => false
    | .mdo _ => false

/-! ### Conditions -/

/-- ML takes a command and hands it to its owner: RESET_N is released and no long command is pending (R190, R202). -/
def State.linkReady (s : State) : Prop := s.resetAsserted = false ∧ s.ml.long = none

/-- ML after a short command: the frame counter has moved on and the response record holds the command's response (R189, R190). -/
def State.linkAfter (s : State) (code : Byte) (st : Status) (data : List Byte) : MgmtLink :=
  { response := some { code := code, frame := s.ml.frame, status := st, refusal := false, data := data },
    long := s.ml.long, frame := nextFrame s.ml.frame }

/-- `s` with a command's response and nothing driven. -/
def State.responded (s : State) (code : Byte) (st : Status) (data : List Byte) : State :=
  { s with ml := s.linkAfter code st data, out := [] }

/-- A request of master `m` passes steps 1 to 5 of admission and lies in window `w` (R11, R12). -/
def State.reaches (s : State) (m : MasterNo) (rq : Request) (w : WindowNo) : Prop :=
  s.part = .running ∧ m ≠ 0 ∧ (s.master m).state = .opened ∧ s.findWindow rq.addr = some w ∧
    classAccepted (s.window w) rq = true

/-- A claim read or write of master `m` reaches cell `c` through window `w`, with its role and length accepted (R15, R83). -/
def State.reachesCell (s : State) (m : MasterNo) (rq : Request) (w : WindowNo) (c : CellNo) : Prop :=
  s.reaches m rq w ∧ winKind (s.window w) = .claim ∧ winCellOf (s.window w) rq.addr = c ∧
    winMember (s.window w) rq.dir m = true ∧ rq.len = 4

/-- A ring request of master `m` reaches ring `r` through window `w` with its role accepted (R15, R30). -/
def State.reachesRing (s : State) (m : MasterNo) (rq : Request) (w : WindowNo) (r : RingNo) : Prop :=
  s.reaches m rq w ∧ winKind (s.window w) = .ring ∧ winRing (s.window w) = r ∧
    winMember (s.window w) rq.dir m = true

/-- The lowest-numbered free entry of the pool (R59). -/
def State.freeEntry (s : State) (i : EntryNo) : Prop :=
  (∀ e ∈ s.hp.list, e.slot ≠ i) ∧ ∀ j, j < i → ∃ e ∈ s.hp.list, e.slot = j

/-- Every entry of the pool is occupied (R61). -/
def State.poolFull (s : State) : Prop := ∀ i, ∃ e ∈ s.hp.list, e.slot = i

/-- `s` after a first parking (R58, R59): the entry at the tail of the pool list, the counter moved on, the phase PARKED. -/
def State.parkedAt (s : State) (i : EntryNo) (m : MasterNo) (rq : Request) (w : WindowNo) (target : Target)
    (cause : Cause) (limit : BitVec 16) : State :=
  { s.phased m (.parked rq) with
    hp :=
      { list := s.hp.list ++
          [{ slot := i, master := m, rq := rq, window := w, target := target, cause := cause, seq := s.hp.arrival,
             order := s.hp.order, remaining := if limit = 0 then none else some limit }],
        arrival := s.hp.arrival + 1, order := s.hp.order + 1 } }

/-- `s` after DN has issued `e` with `rest` left in the queue (R138): the in-flight record with the tag counter's value, retry count 0 and
the response limit, the tag counter moved on, a QUEUED request IN_FLIGHT, the request presented. -/
def State.issuedWith (s : State) (e : QueueEntry) (rest : List QueueEntry) : State :=
  { s with
    dn :=
      { queue := rest, tag := s.dn.tag + 1,
        link := .issued { entry := e, tag := s.dn.tag, retries := 0, timer := s.header.respLimit } },
    masters :=
      match e.source with
      | .master m =>
        s.masters.put m
          { s.master m with
            outst := match (s.master m).outst with
              | .queued rq => .inFlight rq
              | o => o }
      | .noticeWriter => s.masters
      | .tableLoader => s.masters,
    out := s.out ++ [.present s.dn.tag e.dir e.addr e.len e.data] }

/-- `s` when the in-flight request has ended and nothing is issued yet (R140, R144, R145): the link IDLE, the result on its way to its
owner, for a notice write also to NW. -/
def State.flightEnded (s : State) (e : QueueEntry) (ending : Ending) : State :=
  { s with
    dn := { s.dn with link := .idle },
    hand :=
      { s.hand with
        results := s.hand.results ++ [{ entry := e, ending := ending }],
        nwResult := match e.purpose with
          | .notice r => some { ring := r, ending := ending, detached := none }
          | .pass _ => s.hand.nwResult
          | .ring _ _ _ => s.hand.nwResult
          | .table => s.hand.nwResult },
    out := [] }

/-- The wake condition of a direction (R43). -/
def Ring.mayWake (k : Ring) : Side → Prop
  | .producer =>
    k.producer = .free ∧
      ((k.cfg.overrun = .hold ∧ k.fill < k.cfg.slotCount) ∨ k.cfg.overrun = .refuse ∨
        (k.cfg.overrun = .overwrite ∧ (k.fill < k.cfg.slotCount ∨ k.consumer = .free)))
  | .consumer =>
    k.consumer = .free ∧
      ((k.cfg.underrun = .hold ∧ 1 ≤ k.fill) ∨ k.cfg.underrun = .refuse ∨ k.cfg.underrun = .fill)

/-- A timer after a tick or a millisecond step: a present one falls by 1 (R64, R94, R109); one whose expiry is due stays at 0 (log 7). -/
def tickedDown {n : Nat} (t : Option (BitVec n)) : Option (BitVec n) := t.map fun x => if x = 0 then 0 else x - 1

/-- ML when a load has ended (R180, R193): a pending LOAD completes with OK and nothing is pending. -/
def State.afterLoad (s : State) : MgmtLink :=
  match s.ml.long with
  | some { command := .load, frame := n } =>
    { s.ml with
      response := some { code := 0x17, frame := n, status := .ok, refusal := false, data := [] }, long := none }
  | some { command := .reset, frame := _ } => s.ml
  | none => s.ml

/-- `s` after a load has ended in failure (R180). -/
def State.loadFailed (s : State) (code : LoadCode) (index : Option (Fin 32)) : State :=
  { s with part := .halted, tl := { s.tl with code := code, index := index, load := none }, ml := s.afterLoad, out := [] }

/-- `s` after every waiter that `p` names has been answered with `reason` and has left the pool (R72 to R76). -/
def State.cancelled (s : State) (reason : Reason) (p : ParkEntry → Bool) : State :=
  { s with
    hp := { s.hp with list := s.hp.list.filter fun e => !p e },
    masters := Tbl.tabulate fun m =>
      if s.hp.list.any fun e => p e && e.master == m then { s.master m with outst := .none } else s.master m,
    out := (s.hp.list.filter p).map fun e => .answer e.master (.fault reason) }

/-- The header fields that a command or an image gives lie in their ranges (R2). -/
def Header.inRange (h : Header) : Prop :=
  1 ≤ h.alertLevel.toNat ∧ h.alertLevel.toNat ≤ 1024 ∧ h.respLimit ≠ 0

/-- What a view's word shows of a timer that may be absent (R205): bits 16:0 with bit 31 when it is present; when it is absent bit 31 is
clear, and what bits 16:0 hold is not stated (log 18). -/
def timerShown {n : Nat} (t : Option (BitVec n)) (w : Word) : Prop :=
  match t with
  | some x => w = x.zeroExtend 32 ||| 0x80000000
  | none => ∃ x : BitVec 17, w = x.zeroExtend 32

/-- The five words that READ_POOL shows of an entry (R78, R208): the ring direction of an entry that waits on a cell is not stated (log 18),
a due timer shows 1 (log 7), and the items of a word stand in bytes 0, 1, 2, 3 (log 19). -/
def State.entryShown (s : State) (e : ParkEntry) (ws : List Word) : Prop :=
  ∃ (flags : Byte) (left : Word),
    ws =
      [wordOf (BitVec.ofNat 8 e.slot.val) (BitVec.ofNat 8 e.master.val) ((s.master e.master).prio.zeroExtend 8)
          ((if e.rq.priv then 1 else 0) + if e.rq.fetch then 2 else 0),
        e.rq.addr,
        wordOf (BitVec.ofNat 8 e.rq.len) (BitVec.ofNat 8 e.window.val)
          (match e.target with | .ring r _ => BitVec.ofNat 8 r.val | .cell c => BitVec.ofNat 8 c.val) flags,
        e.seq, left] ∧
    timerShown (e.remaining.map held) left ∧
    (match e.target with
      | .ring _ side => flags.getLsbD 0 = false ∧ (flags.getLsbD 1 = true ↔ side = .consumer)
      | .cell _ => flags.getLsbD 0 = true) ∧
    flags.extractLsb' 2 2 = (match e.cause with | .full => 0 | .empty => 1 | .lane => 2 | .claim => 3) ∧
    (flags.getLsbD 4 = true ↔ e.rq.dir = .write) ∧ flags.extractLsb' 5 3 = 0

/-- The word in which READ_RING shows a lane (R28, R53, R208): condition, master and detached mark, which is clear for a lane that is not
BUSY (R49, R55). -/
def laneShown : Lane → Word
  | .free => wordOf 0 0 0 0
  | .reserved m => wordOf 1 (BitVec.ofNat 8 m.val) 0 0
  | .busy m d => wordOf 2 (BitVec.ofNat 8 m.val) (if d then 1 else 0) 0

/-- `s` with a lane of ring `r` FREE. -/
def State.laneFreed (s : State) (r : RingNo) (side : Side) : State :=
  { s with rings := s.rings.put r ((s.ring r).setLane side .free) }

/-- The request's address is the cursor of its direction (R27, R32). -/
def State.atCursor (s : State) (rq : Request) (w : WindowNo) (r : RingNo) : Prop :=
  rq.addr = cursorAddr (winBase (s.window w)) (s.ring r) (Dir.side rq.dir)

/-- `s` after DROP_MASTER has fenced master `m` (R125, R127): FENCED, a FENCE notice with its phase and the number of cells it owns
handed to NW, and CU told of those cells. -/
def State.fencedOff (s : State) (m : MasterNo) : State :=
  let owned := (List.finRange 64).filter fun c => (s.cell c).owner == some m
  { s with
    masters := s.masters.put m { s.master m with state := .fenced },
    hand :=
      { s.hand with
        notices := s.hand.notices ++
          [{ kind := .fence, master := m, window := none, subject := .none, reason := none, addr := none,
             detail := .fence (s.master m).outst.phase owned.length }],
        drops := s.hand.drops ++ owned.map fun c => (m, c) },
    out := [] }

/-- `s` with ring `r` replaced, and nothing driven. -/
def State.ringed (s : State) (r : RingNo) (k : Ring) : State := { s with rings := s.rings.put r k, out := [] }

/-- What both resets leave in the blocks but for the downstream link and ML (R23, R55, R79, R102, R114, R131, R150, R169, R174,
R186). -/
def State.blockResetValues (s : State) : Prop :=
  s.timestamp = 0 ∧
  s.header.format = 0x31200001 ∧ s.header.balance = 0 ∧ s.header.policy = .closed ∧
  s.header.noticeRing = none ∧ s.header.alertLevel = 1 ∧ s.header.mask = 127 ∧
  s.header.internalPrio = 0 ∧ s.header.retryBudget = 0 ∧ s.header.respLimit = 65535 ∧
  (∀ m, s.header.prios.nth m = 0) ∧
  (∀ w, winValid (s.window w) = false ∧ s.window w = Tbl.all 4 0) ∧
  (∀ r, (s.ring r).state = .off ∧ (s.ring r).cfg = RingConfig.unconfigured ∧
    (s.ring r).wi = 0 ∧ (s.ring r).wo = 0 ∧ (s.ring r).ri = 0 ∧
    (s.ring r).ro = 0 ∧ (s.ring r).fill = 0 ∧
    (s.ring r).producer = .free ∧ (s.ring r).consumer = .free ∧
    (s.ring r).commits = 0 ∧ (s.ring r).releases = 0 ∧ (s.ring r).drops = 0 ∧
    (s.ring r).fills = 0 ∧ (s.ring r).strays = 0) ∧
  (∀ r, (s.cad r).cls = .unknown ∧ (s.cad r).candidate = none ∧ (s.cad r).run = 0 ∧
    (s.cad r).elapsed = none ∧ (s.cad r).last = none ∧ (s.cad r).watch = none) ∧
  s.hp.list = [] ∧ s.hp.arrival = 0 ∧
  (∀ c, (s.cell c).owner = none ∧ (s.cell c).gen = 0 ∧ (s.cell c).lease = none ∧
    (s.cell c).lapsed = none) ∧
  s.cu.divider = 0 ∧ s.cu.msDue = 0 ∧
  (∀ m, (s.master m).prio = 0 ∧ (s.master m).state = .opened ∧
    (s.master m).outst = .none) ∧
  s.dn.queue = [] ∧ s.dn.tag = 0 ∧
  s.nw.queue = [] ∧ s.nw.writer = .idle ∧ s.nw.seq = 0 ∧ s.nw.lost = 0 ∧
  s.nw.mask = 127 ∧
  s.tl.valid = false ∧ s.tl.code = .none ∧ s.tl.index = none ∧
  s.tl.load = none

/-- What hard reset leaves (R150, R171, R202, with the values of both resets). The sampled straps and the reset cause before the first
release are the model's (log 2) and not in it. -/
def State.hardResetValues (s : State) : Prop :=
  s.part = .reset ∧ s.blockResetValues ∧ s.dn.link = .idle ∧
    s.ml.response = none ∧ s.ml.long = none ∧ s.ml.frame = 1

/-! ### The laws of the part -/

/-- The ring laws (R26, R36), with what keeps them: a configuration is unconfigured or well formed, a ring that is not OFF is
configured, an attached producer access means F below N and an attached consumer access means F at least 1. -/
def Ring.law (k : Ring) : Prop :=
  (k.cfg = RingConfig.unconfigured ∨ ringWellFormed k.cfg = true) ∧
  (k.state ≠ .off → ringWellFormed k.cfg = true) ∧
  k.fill ≤ k.cfg.slotCount ∧
  k.wi = (k.ri + k.fill) % k.cfg.slotCount ∧
  (k.cfg.slotCount ≠ 0 → k.ri < k.cfg.slotCount) ∧
  (k.fill = k.cfg.slotCount → k.wo = 0) ∧
  (k.fill = 0 → k.ro = 0) ∧
  (∀ m, k.producer = .busy m false → k.fill < k.cfg.slotCount) ∧
  (∀ m, k.consumer = .busy m false → 1 ≤ k.fill)

/-- Every ring meets the ring laws. -/
def State.ringLaws (s : State) : Prop := ∀ r, (s.ring r).law

/-- The law of the pool's entries (R57): at most 8, at most one per master, none for master 0, no two in one place; and each
waiting master's phase is PARKED with the request its entry holds (R121). -/
def State.waiterLaw (s : State) : Prop :=
  s.hp.list.length ≤ 8 ∧ (s.hp.list.map (·.slot)).Nodup ∧ (s.hp.list.map (·.master)).Nodup ∧
    ∀ e ∈ s.hp.list, e.master ≠ 0 ∧ (s.master e.master).outst = .parked e.rq

/-- The request of a woken master, whose replay is out of the pool, with what it carries (R62, R66). -/
def State.wokenWith (s : State) (m : MasterNo) (k : Woken) : Prop := ∃ rq, (s.master m).outst = .laneHeld rq k

/-- The law of the pool list (R57, R58, R62): the entries stand in the order of their first parking, and no two requests, parked or
out of the pool for a replay, share a first parking. -/
def State.orderLaw (s : State) : Prop :=
  (s.hp.list.Pairwise fun a b => a.order < b.order) ∧
  (∀ e ∈ s.hp.list, e.order < s.hp.order) ∧
  (∀ m k, s.wokenWith m k → k.order < s.hp.order ∧ ∀ e ∈ s.hp.list, e.order ≠ k.order) ∧
  (∀ m q k j, m ≠ q → s.wokenWith m k → s.wokenWith q j → k.order ≠ j.order)

/-- The law of the hold pool: its entries and their order (R57, R58, R62). -/
def State.poolLaw (s : State) : Prop := s.waiterLaw ∧ s.orderLaw

/-- The law of the claim cells (R80, R93): a free cell has no lease; a cell with waiters has an owner, who is not among them; no
owner is the cell's lapsed owner. -/
def State.cellLaw (s : State) : Prop :=
  (∀ c, (s.cell c).owner = none → (s.cell c).lease = none) ∧
  (∀ e ∈ s.hp.list, ∀ c, e.target = .cell c → ∃ o, (s.cell c).owner = some o ∧ o ≠ e.master) ∧
  (∀ c m, (s.cell c).owner = some m → (s.cell c).lapsed ≠ some m)

/-- The law of the pending notice queue (R157): with the record in flight it fills at most 8 places. -/
def State.noticeLaw (s : State) : Prop := s.nw.filled ≤ 8

/-- What lets a join be issued at once (R136): an IDLE link has no entry waiting. -/
def State.linkLaw (s : State) : Prop := s.dn.link = .idle → s.dn.queue = []

/-- The part state against the reset line, the load in progress and the long command (R170, R171, R173, R174, R193). -/
def State.partLaw (s : State) : Prop :=
  (s.part = .reset ↔ s.resetAsserted = true ∨ ∃ p, s.ml.long = some p ∧ p.command = .reset) ∧
  (s.part = .loading ↔ s.tl.load.isSome = true) ∧
  (∀ p, s.ml.long = some p → s.resetAsserted = false ∧
    (p.command = .load → ∃ l, s.tl.load = some l ∧ l.origin = .command))

/-- The consistency conditions of the live table (R9, R10). -/
def State.tableLaw (s : State) : Prop :=
  (∀ w, winWellFormed (s.window w) = true) ∧
  (∀ v w, v ≠ w → winOverlap (s.window v) (s.window w) = false) ∧
  (∀ v w, v ≠ w → winCellsOverlap (s.window v) (s.window w) = false) ∧
  (∀ v w, v ≠ w → winSameRing (s.window v) (s.window w) = false) ∧
  (∀ w, winValid (s.window w) = true → winKind (s.window w) = .ring →
    winSize (s.window w) = (s.ring (winRing (s.window w))).cfg.slotSize * (s.ring (winRing (s.window w))).cfg.slotCount) ∧
  noticeBound s.windows s.header.noticeRing = true

/-- The whole invariant of the part. -/
def State.Safe (s : State) : Prop :=
  s.ringLaws ∧ s.poolLaw ∧ s.cellLaw ∧ s.noticeLaw ∧ s.linkLaw ∧ s.partLaw ∧ s.tableLaw

end Sys2Proof.Machine
end

