-- ==== Sys2Proof/Certificates/Slice0/Obligations.lean ====
section
/-! DEFINITION. The statements for the provers. Each docstring names the rules a statement rests on, and the log entry where it
rests on a choice of the model. -/

open Sys2Proof Sys2Proof.Machine

/-! ### The block as a whole -/

/-- A step runs the command at the front of the queue on the state with the rest of the queue. On an empty queue the block
idles unless a soft reset is in progress, which is the model's choice (log 1, log 8). -/
def Obligations.StepRunsFrontCommand : Prop :=
  (∀ (c : Instr) (rest : List Instr) (s : State), s.pending = c :: rest →
    step s = exec c { s with pending := rest }) ∧
  ∀ s : State, s.pending = [] → (∀ p, s.ml.long = some p → p.command = .load) → step s = .next s

/-- Asserting RESET_N leaves every block at its hard reset values in every state, with nothing driven on the links (R171), and they
are the values the model starts from. The reset cause and the sampled straps stay until the release. -/
def Obligations.ResetNAssertGivesHardResetValues : Prop :=
  State.reset.hardResetValues ∧
  ∀ s : State, ∃ t, exec .resetNAssert s = .next t ∧ t.hardResetValues ∧ t.resetAsserted = true ∧ t.out = [] ∧
    t.cause = s.cause ∧ t.straps = s.straps ∧ t.strapPins = s.strapPins ∧ t.pending = s.pending

/-- No command changes the queue of commands (the block's interface). -/
def Obligations.CommandsLeaveTheQueueAlone : Prop :=
  ∀ (c : Instr) (s t : State), exec c s = .next t → t.pending = s.pending

/-- Every well-formed command completes in every state; that an event row with nothing to take answers next and changes nothing is the
model's choice (log 3). The two shapes that the links have no encoding for stop the model by name (R116, R188; log 4). -/
def Obligations.WellFormedCommandsComplete : Prop :=
  (∀ (c : Instr) (s : State), c.wf = true → ∃ t, exec c s = .next t) ∧
  (∀ (m : MasterNo) (rq : Request) (s : State), rq.wf = false →
    exec (.upstreamRequest m rq) s = .fault .noSuchRequest) ∧
  ∀ (code : Byte) (args : List Byte) (s : State), frameMalformed code args = false →
    exec (.commandFrameMalformed code args) s = .fault .frameWellFormed

/-! ### Management frames -/

/-- Every management command, POLL and every malformed frame is read back from the frame it is written as, whatever its arguments; and every
frame with at least one whole byte is one well-formed command, which is written back as the same bytes but for a POLL frame, whose further
bytes are the clocks in which its record is shifted out (R188, R192, R208, R209; that they are counted and not read is log 29). The strap
levels of RESET are no part of the frame (log 9, log 29). -/
def Obligations.FramesReadBack : Prop :=
  ∀ straps : Straps,
    (∀ (i : Instr) (bytes : List Byte), i.wf = true → encodeFrame i = some bytes →
      (∀ st, i = .reset st → st = straps) → decodeFrame straps bytes = some i) ∧
    decodeFrame straps [] = none ∧
    ∀ (code : Byte) (args : List Byte), ∃ i, decodeFrame straps (code :: args) = some i ∧ i.wf = true ∧
      (code = Config.pollCode → i = .poll args.length) ∧
      (code ≠ Config.pollCode → encodeFrame i = some (code :: args))

/-! ### Laws of the part -/

/-- The laws hold at reset. -/
def Obligations.LawsHoldAtReset : Prop := State.reset.Safe

/-- The ring laws (R26, R36) are kept by every step from every state that meets them. -/
def Obligations.RingLawsKept : Prop :=
  ∀ s t : State, s.ringLaws → step s = .next t → t.ringLaws

/-- The law of the hold pool, the order of its list by first parking included (R57, R58, R62), and the law of the claim cells (R80) are kept
by every step from every state that meets both. -/
def Obligations.WaiterAndOwnerLawsKept : Prop :=
  ∀ s t : State, s.poolLaw → s.cellLaw → step s = .next t → t.poolLaw ∧ t.cellLaw

/-- The pending notice queue with the record in flight fills at most 8 places (R157), and an IDLE downstream link has no entry
waiting (R136): every step keeps each. -/
def Obligations.QueueLawsKept : Prop :=
  (∀ s t : State, s.noticeLaw → step s = .next t → t.noticeLaw) ∧
  ∀ s t : State, s.linkLaw → step s = .next t → t.linkLaw

/-- The part is in RESET exactly while RESET_N is asserted or a RESET is pending, in LOADING exactly while a load is in progress, and a pending
LOAD is the load in progress (R170, R173, R174, R193): every step keeps it. When a soft reset ends is the model's choice (log 8). -/
def Obligations.PartLawKept : Prop :=
  ∀ s t : State, s.partLaw → step s = .next t → t.partLaw

/-- The consistency conditions of the live table (R9, R10) are kept by every step from every state that meets them. -/
def Obligations.TableConsistencyKept : Prop :=
  ∀ s t : State, s.tableLaw → step s = .next t → t.tableLaw

/-- Every step but a hard reset answers a master exactly when its request leaves the part, and once (R119); and a request enters the
part only by its acceptance (R117, R121). -/
def Obligations.EveryRequestAnsweredOnce : Prop :=
  ∀ (c : Instr) (s t : State), c ≠ .resetNAssert → exec c s = .next t → ∀ m,
    answersTo m t.out =
      (if (s.master m).outst ≠ .none ∧ (t.master m).outst = .none then 1 else 0) ∧
    ((s.master m).outst = .none → (t.master m).outst ≠ .none → ∃ rq, c = .upstreamRequest m rq)

/-- The live table changes only by WRITE_WINDOW, WRITE_HEADER, the end of a load and the resets (R1), and a ring's configuration
only by WRITE_RING, the end of a load and the resets (R24). -/
def Obligations.TableChangesOnlyByItsCommands : Prop :=
  ∀ (c : Instr) (s t : State), exec c s = .next t → c ≠ .tableReadResult → c ≠ .resetNAssert →
    (∀ st, c ≠ .reset st) →
    ((∀ b e, c ≠ .writeWindow b e) → t.windows = s.windows) ∧
    ((∀ w, c ≠ .writeHeader w) → t.header = s.header) ∧
    ((∀ b rec, c ≠ .writeRing b rec) → ∀ r, (t.ring r).cfg = (s.ring r).cfg)

/-- A master's priority changes only by SET_PRIORITY, the header copies and the resets, and its state only by DROP_MASTER,
REOPEN_MASTER and the resets (R120, R124). -/
def Obligations.MasterRecordsChangeOnlyByTheirCommands : Prop :=
  ∀ (c : Instr) (s t : State), exec c s = .next t → c ≠ .resetNAssert → (∀ st, c ≠ .reset st) → ∀ m,
    ((∀ b p, c ≠ .setPriority b p) → c ≠ .headerCopy → c ≠ .tableReadResult →
      (t.master m).prio = (s.master m).prio) ∧
    ((∀ b, c ≠ .dropMaster b) → (∀ b, c ≠ .reopenMaster b) → (t.master m).state = (s.master m).state)

/-- The timestamp changes only by a tick and the resets (R185, R186), the sampled straps and the reset cause only at the end of a
reset (R172, R173), the lease divider only by a tick and the resets (R94, R102), and table-valid only by the end of a load and the
resets (R174). The end of a soft reset is a step on an empty queue (log 8). -/
def Obligations.TimeAndStartUpStateChangeOnlyByTheirCommands : Prop :=
  (∀ (c : Instr) (s t : State), exec c s = .next t →
    ((∀ st, c ≠ .reset st) → c ≠ .tick → c ≠ .resetNAssert →
      t.timestamp = s.timestamp ∧ t.cu.divider = s.cu.divider) ∧
    ((∀ st, c ≠ .resetNRelease st) → t.straps = s.straps ∧ t.cause = s.cause) ∧
    ((∀ st, c ≠ .reset st) → c ≠ .tableReadResult → c ≠ .resetNAssert → t.tl.valid = s.tl.valid)) ∧
  ∀ s t : State, s.pending = [] → step s = .next t →
    t.timestamp = s.timestamp ∧ t.cu.divider = s.cu.divider ∧ t.tl.valid = s.tl.valid ∧
    ((∀ p, s.ml.long = some p → p.command = .load) → t.straps = s.straps ∧ t.cause = s.cause)

/-! ### The upstream port and admission -/

/-- UP accepts a request of a master that has none outstanding, in LOADING, RUNNING and HALTED, and keeps it whole; otherwise the link
holds it off and nothing changes (R117). -/
def Obligations.RequestAcceptedOrHeldOff : Prop :=
  ∀ (m : MasterNo) (rq : Request) (s : State), rq.wf = true →
    ((s.master m).outst = .none → s.part ≠ .reset →
      exec (.upstreamRequest m rq) s = .next (s.phased m (.admitting rq))) ∧
    ((s.master m).outst ≠ .none ∨ s.part = .reset → exec (.upstreamRequest m rq) s = .next s.quiet)

/-- Admission makes its checks in the order of R12, and each failure is answered FAULT at once, with a FAULT notice but for NOT_READY,
whose window is the one that step 5 or 6 looked at (R8, R11, R12, R13). That a request with the FETCH mark for a BLOCK window is BLOCKED and not
CLASS is the model's reading (log 34). -/
def Obligations.AdmissionFaultsInOrder : Prop :=
  ∀ (m : MasterNo) (rq : Request) (s : State), (s.master m).outst = .admitting rq →
    (s.part ≠ .running → exec (.admission m) s = .next (s.answered m (.fault .notReady))) ∧
    (s.part = .running → m = 0 →
      exec (.admission m) s =
        .next ((s.answered m (.fault .badMaster)).noticed (faultNotice .badMaster m rq.addr none .none))) ∧
    (s.part = .running → m ≠ 0 → (s.master m).state = .fenced →
      exec (.admission m) s =
        .next ((s.answered m (.fault .fenced)).noticed (faultNotice .fenced m rq.addr none .none))) ∧
    (s.part = .running → m ≠ 0 → (s.master m).state = .opened →
      (∀ w, winValid (s.window w) = true → winHolds (s.window w) rq.addr = false) → s.header.policy = .closed →
      exec (.admission m) s =
        .next ((s.answered m (.fault .noWindow)).noticed (faultNotice .noWindow m rq.addr none .none))) ∧
    (∀ w, s.part = .running → m ≠ 0 → (s.master m).state = .opened → s.findWindow rq.addr = some w →
      (winPriv (s.window w) = true ∧ rq.priv = false) ∨
        (rq.fetch = true ∧ (winKind (s.window w) = .ring ∨ winKind (s.window w) = .claim ∨
          (winKind (s.window w) = .pass ∧ winFetch (s.window w) = false))) →
      exec (.admission m) s =
        .next ((s.answered m (.fault .cls)).noticed (faultNotice .cls m rq.addr (some w) .none))) ∧
    (∀ w, s.reaches m rq w → winKind (s.window w) = .block →
      exec (.admission m) s =
        .next ((s.answered m (.fault .blocked)).noticed (faultNotice .blocked m rq.addr (some w) .none))) ∧
    (∀ w, s.reaches m rq w → winKind (s.window w) = .pass → winMember (s.window w) rq.dir m = false →
      exec (.admission m) s =
        .next ((s.answered m (.fault .access)).noticed (faultNotice .access m rq.addr (some w) .none)))

/-- A request of a member of a PASS window's set, and one for an unwindowed address under the OPEN policy, is forwarded unchanged, and
the master's phase becomes QUEUED (R12, R14). -/
def Obligations.PassRequestsForwarded : Prop :=
  ∀ (m : MasterNo) (rq : Request) (s : State), (s.master m).outst = .admitting rq →
    (∀ w, s.reaches m rq w → winKind (s.window w) = .pass → winMember (s.window w) rq.dir m = true →
      exec (.admission m) s = .next ((s.phased m (.queued rq)).joined (forwarded m rq (.pass (some w))))) ∧
    (s.part = .running → m ≠ 0 → (s.master m).state = .opened →
      (∀ w, winValid (s.window w) = true → winHolds (s.window w) rq.addr = false) → s.header.policy = .open →
      exec (.admission m) s = .next ((s.phased m (.queued rq)).joined (forwarded m rq (.pass none))))

/-! ### The claim unit -/

/-- R86: a claim read of a cell that another master owns, in a NOWAIT window, is answered DONE with the reply word that names the owner
and the generation, waited flag clear; the cell is unchanged and no notice is given. -/
def Obligations.ClaimReadRefusedWithoutWait : Prop :=
  ∀ (m o : MasterNo) (rq : Request) (w : WindowNo) (c : CellNo) (s : State), (s.master m).outst = .admitting rq →
    s.reachesCell m rq w c → rq.dir = .read → (s.cell c).owner = some o → o ≠ m → winWait (s.window w) = false →
    exec (.admission m) s = .next (s.answered m (.done [BitVec.ofNat 8 o.val, (s.cell c).gen, 0, 0]))

/-- A claim read of a free cell is granted: the generation advances, the reader owns the cell under the window's lease limit, a lapsed owner that
is granted is cleared, and the answer is DONE with 0 (R82, R84). One of a cell its reader owns is answered that it holds the cell, in either wait
mode, and changes no cell (R85). One of another master's cell in a WAIT window is parked on the cell with cause CLAIM, in the lowest free entry at
the tail of the list, under the window's wait limit (R58, R59, R60, R87); with a full pool it is refused with the waited flag set (R61, R87). -/
def Obligations.ClaimReadsGrantedHeldOrWaiting : Prop :=
  ∀ (m : MasterNo) (rq : Request) (w : WindowNo) (c : CellNo) (s : State), (s.master m).outst = .admitting rq →
    s.reachesCell m rq w c → rq.dir = .read →
    ((s.cell c).owner = none →
      exec (.admission m) s =
        .next
          { s.answered m (.done [0, 0, 0, 0]) with
            cells := s.cells.put c
              { owner := some m, gen := (s.cell c).gen + 1,
                lease := if winLease (s.window w) = 0 then none else some (winLease (s.window w)),
                lapsed := if (s.cell c).lapsed = some m then none else (s.cell c).lapsed } }) ∧
    ((s.cell c).owner = some m →
      exec (.admission m) s = .next (s.answered m (.done [BitVec.ofNat 8 m.val, (s.cell c).gen, 0, 0]))) ∧
    ∀ o, (s.cell c).owner = some o → o ≠ m → winWait (s.window w) = true →
      (∀ i, s.freeEntry i →
        exec (.admission m) s = .next (s.parkedAt i m rq w (.cell c) .claim (winWaitLimit (s.window w)))) ∧
      (s.poolFull →
        exec (.admission m) s = .next (s.answered m (.done [BitVec.ofNat 8 o.val, (s.cell c).gen, 0, 128])))

/-- A claim write by the owner is a release, answered DONE: without waiters the cell is free with its generation and lapsed owner kept;
the winning waiter is handed the cell and answered DONE with 0 in the same step (R89, R90, R91). A write by the lapsed owner is answered
LATE_RELEASE and clears the lapsed owner (R92), and any other write NOT_OWNER with the cell unchanged (R93). That the winner's lease is that of
the window it parked under is the model's reading (log 17). -/
def Obligations.ClaimWrites : Prop :=
  ∀ (m : MasterNo) (rq : Request) (w : WindowNo) (c : CellNo) (s : State), (s.master m).outst = .admitting rq →
    s.reachesCell m rq w c → rq.dir = .write →
    ((s.cell c).owner = some m → (∀ e ∈ s.hp.list, e.target ≠ .cell c) →
      exec (.admission m) s =
        .next
          { s.answered m (.done []) with
            cells := s.cells.put c { s.cell c with owner := none, lease := none } }) ∧
    (∀ e, (s.cell c).owner = some m → s.winner (.cell c) = some e → e.master ≠ m →
      (s.master e.master).outst ≠ .none →
      exec (.admission m) s =
        .next
          { s.answered m (.done []) with
            masters := (s.masters.put m { s.master m with outst := .none }).put e.master
              { s.master e.master with outst := .none },
            out := [.answer m (.done []), .answer e.master (.done [0, 0, 0, 0])],
            hp := { s.hp with list := s.hp.list.erase e },
            cells := s.cells.put c
              { owner := some e.master, gen := (s.cell c).gen + 1,
                lease := if winLease (s.window e.window) = 0 then none else some (winLease (s.window e.window)),
                lapsed := if (s.cell c).lapsed = some e.master then none else (s.cell c).lapsed } }) ∧
    ((s.cell c).owner ≠ some m → (s.cell c).lapsed = some m →
      exec (.admission m) s =
        .next
          { (s.answered m (.fault .lateRelease)).noticed
              (faultNotice .lateRelease m rq.addr (some w) (.cell c)) with
            cells := s.cells.put c { s.cell c with lapsed := none } }) ∧
    ((s.cell c).owner ≠ some m → (s.cell c).lapsed ≠ some m →
      exec (.admission m) s =
        .next
          ((s.answered m (.fault .notOwner)).noticed (faultNotice .notOwner m rq.addr (some w) (.cell c))))

/-- The role comes before the length: a request of a master outside the set of its direction is answered ACCESS, then one whose length is
not 4 CLAIM_SHAPE, each with its notice and no change to any cell (R83, R100). -/
def Obligations.ClaimRoleThenShape : Prop :=
  ∀ (m : MasterNo) (rq : Request) (w : WindowNo) (s : State), (s.master m).outst = .admitting rq →
    s.reaches m rq w → winKind (s.window w) = .claim →
    (winMember (s.window w) rq.dir m = false →
      exec (.admission m) s =
        .next
          ((s.answered m (.fault .access)).noticed
            (faultNotice .access m rq.addr (some w) (.cell (winCellOf (s.window w) rq.addr))))) ∧
    (winMember (s.window w) rq.dir m = true → rq.len ≠ 4 →
      exec (.admission m) s =
        .next
          ((s.answered m (.fault .claimShape)).noticed
            (faultNotice .claimShape m rq.addr (some w) (.cell (winCellOf (s.window w) rq.addr)))))

/-! ### The ring tracker -/

/-- A ring request that finds its lane FREE, its cursor matched and its flow open is forwarded unchanged, its lane BUSY and its phase
QUEUED; no cursor, fill or counter changes (R31, R34, R36, R39). -/
def Obligations.RingAccessForwarded : Prop :=
  ∀ (m : MasterNo) (rq : Request) (w : WindowNo) (r : RingNo) (s : State), (s.master m).outst = .admitting rq →
    s.reachesRing m rq w r → (s.ring r).state = .running → s.atCursor rq w r →
    (rq.dir = .write → (s.ring r).producer = .free → (s.ring r).fill < (s.ring r).cfg.slotCount →
      exec (.admission m) s =
        .next
          ({ s.phased m (.queued rq) with rings := s.rings.put r { s.ring r with producer := .busy m false } }.joined
            (forwarded m rq (.ring r .producer w)))) ∧
    (rq.dir = .read → (s.ring r).consumer = .free → 1 ≤ (s.ring r).fill →
      exec (.admission m) s =
        .next
          ({ s.phased m (.queued rq) with rings := s.rings.put r { s.ring r with consumer := .busy m false } }.joined
            (forwarded m rq (.ring r .consumer w))))

/-- The role, the ring's state and the lane are judged in this order, before the cursor: ACCESS, RING_OFF, RING_FROZEN with their notices,
and a lane that is taken parks the request with cause LANE, or is answered POOL_FULL; the ring is not touched (R30, R31, R42, R52, R61). -/
def Obligations.RingRequestsTurnedAway : Prop :=
  ∀ (m : MasterNo) (rq : Request) (w : WindowNo) (s : State), (s.master m).outst = .admitting rq →
    s.reaches m rq w → winKind (s.window w) = .ring →
    (winMember (s.window w) rq.dir m = false →
      exec (.admission m) s =
        .next
          ((s.answered m (.fault .access)).noticed
            (faultNotice .access m rq.addr (some w) (.ring (winRing (s.window w)))))) ∧
    ∀ r, s.reachesRing m rq w r →
      ((s.ring r).state = .off →
        exec (.admission m) s =
          .next ((s.answered m (.fault .ringOff)).noticed (faultNotice .ringOff m rq.addr (some w) (.ring r)))) ∧
      ((s.ring r).state = .frozen →
        exec (.admission m) s =
          .next ((s.answered m (.fault .ringFrozen)).noticed (faultNotice .ringFrozen m rq.addr (some w) (.ring r)))) ∧
      ((s.ring r).state = .running → (s.ring r).lane (Dir.side rq.dir) ≠ .free →
        (s.ring r).lane (Dir.side rq.dir) ≠ .reserved m →
        (∀ i, s.freeEntry i →
          exec (.admission m) s =
            .next (s.parkedAt i m rq w (.ring r (Dir.side rq.dir)) .lane (s.ring r).cfg.holdLimit)) ∧
        (s.poolFull →
          exec (.admission m) s =
            .next ((s.answered m (.fault .poolFull)).noticed (faultNotice .poolFull m rq.addr (some w) (.ring r)))))

/-- A request that holds its lane and misses its cursor is a stray: FAULT STRAY with its notice, the strays counter, the lane FREE and
RT's wake requests (R32, R44). Under STRAY_FREEZE the ring is FROZEN, the other direction's BUSY lane is detached, a FROZEN notice is
given, and HP and CM are told (R33). -/
def Obligations.StraysFaultOrFreeze : Prop :=
  ∀ (m : MasterNo) (rq : Request) (w : WindowNo) (r : RingNo) (s : State), (s.master m).outst = .admitting rq →
    s.reachesRing m rq w r → (s.ring r).state = .running → (s.ring r).lane (Dir.side rq.dir) = .free →
    ¬ s.atCursor rq w r →
    ((s.ring r).cfg.stray = .fault →
      exec (.admission m) s =
        .next
          (({ s.answered m (.fault .stray) with
              rings := s.rings.put r { s.ring r with strays := (s.ring r).strays + 1 } }.noticed
            (faultNotice .stray m rq.addr (some w) (.ring r))).wakeRequests r)) ∧
    ((s.ring r).cfg.stray = .freeze →
      exec (.admission m) s =
        .next
          { s.answered m (.fault .stray) with
            rings := s.rings.put r
              { s.ring r with
                state := .frozen, strays := (s.ring r).strays + 1,
                producer := (s.ring r).producer.detach, consumer := (s.ring r).consumer.detach },
            hand :=
              { s.hand with
                notices := s.hand.notices ++
                  [faultNotice .stray m rq.addr (some w) (.ring r),
                   { kind := .frozen, master := m, window := some w, subject := .ring r, reason := none,
                     addr := some rq.addr, detail := .none }],
                cancelFreeze := s.hand.cancelFreeze.put r true,
                cadStop := s.hand.cadStop.put r true } })

/-- A producer write that meets F = N goes by the overrun policy: HOLD parks it with cause FULL, REFUSE answers FULL, OVERWRITE drops the
oldest slot with a DROP notice and forwards the write when the consumer lane is FREE, and parks it with cause LANE otherwise (R34, R35,
R42, R44, R61). -/
def Obligations.FullRingFollowsOverrunPolicy : Prop :=
  ∀ (m : MasterNo) (rq : Request) (w : WindowNo) (r : RingNo) (s : State), (s.master m).outst = .admitting rq →
    s.reachesRing m rq w r → (s.ring r).state = .running → rq.dir = .write → (s.ring r).producer = .free →
    s.atCursor rq w r → (s.ring r).fill = (s.ring r).cfg.slotCount →
    ((s.ring r).cfg.overrun = .hold →
      (∀ i, s.freeEntry i →
        exec (.admission m) s =
          .next ((s.parkedAt i m rq w (.ring r .producer) .full (s.ring r).cfg.holdLimit).wakeRequests r)) ∧
      (s.poolFull →
        exec (.admission m) s =
          .next (((s.answered m (.fault .poolFull)).noticed
            (faultNotice .poolFull m rq.addr (some w) (.ring r))).wakeRequests r))) ∧
    ((s.ring r).cfg.overrun = .refuse →
      exec (.admission m) s =
        .next (((s.answered m (.fault .full)).noticed
          (faultNotice .full m rq.addr (some w) (.ring r))).wakeRequests r)) ∧
    ((s.ring r).cfg.overrun = .overwrite → (s.ring r).consumer = .free →
      exec (.admission m) s =
        .next
          ((({ s.phased m (.queued rq) with
              rings := s.rings.put r
                { s.ring r with
                  producer := .busy m false, ri := ((s.ring r).ri + 1) % (s.ring r).cfg.slotCount, ro := 0,
                  fill := (s.ring r).fill - 1, drops := (s.ring r).drops + 1 } }.noticed
            { kind := .drop, master := m, window := some w, subject := .ring r, reason := none,
              addr := some (winBase (s.window w) + BitVec.ofNat 32 ((s.ring r).ri * (s.ring r).cfg.slotSize)),
              detail := .drop (decide (0 < (s.ring r).ro)) }).joined
            (forwarded m rq (.ring r .producer w))).wakeRequests r)) ∧
    ((s.ring r).cfg.overrun = .overwrite → (s.ring r).consumer ≠ .free → ∀ i, s.freeEntry i →
      exec (.admission m) s =
        .next ((s.parkedAt i m rq w (.ring r .producer) .lane (s.ring r).cfg.holdLimit).wakeRequests r)) ∧
    ((s.ring r).cfg.overrun = .overwrite → (s.ring r).consumer ≠ .free → s.poolFull →
      exec (.admission m) s =
        .next (((s.answered m (.fault .poolFull)).noticed
          (faultNotice .poolFull m rq.addr (some w) (.ring r))).wakeRequests r))

/-- A consumer read that meets F = 0 goes by the underrun policy: HOLD parks it with cause EMPTY, REFUSE answers EMPTY, FILL answers DONE at
once with the fill word, least significant byte first, in each of its words, and counts a fill (R39, R40, R42, R44, R61, R205). -/
def Obligations.EmptyRingFollowsUnderrunPolicy : Prop :=
  ∀ (m : MasterNo) (rq : Request) (w : WindowNo) (r : RingNo) (s : State), (s.master m).outst = .admitting rq →
    s.reachesRing m rq w r → (s.ring r).state = .running → rq.dir = .read → (s.ring r).consumer = .free →
    s.atCursor rq w r → (s.ring r).fill = 0 →
    ((s.ring r).cfg.underrun = .hold →
      (∀ i, s.freeEntry i →
        exec (.admission m) s =
          .next ((s.parkedAt i m rq w (.ring r .consumer) .empty (s.ring r).cfg.holdLimit).wakeRequests r)) ∧
      (s.poolFull →
        exec (.admission m) s =
          .next (((s.answered m (.fault .poolFull)).noticed
            (faultNotice .poolFull m rq.addr (some w) (.ring r))).wakeRequests r))) ∧
    ((s.ring r).cfg.underrun = .refuse →
      exec (.admission m) s =
        .next (((s.answered m (.fault .empty)).noticed
          (faultNotice .empty m rq.addr (some w) (.ring r))).wakeRequests r)) ∧
    ((s.ring r).cfg.underrun = .fill →
      ∃ data, exec (.admission m) s =
          .next
            ({ s.answered m (.done data) with
                rings := s.rings.put r { s.ring r with fills := (s.ring r).fills + 1 } }.wakeRequests r) ∧
        data.length = 4 * (rq.len / 4) ∧
        ∀ i, i < rq.len / 4 →
          data[4 * i]? = some ((s.ring r).cfg.fillWord.extractLsb' 0 8) ∧
          data[4 * i + 1]? = some ((s.ring r).cfg.fillWord.extractLsb' 8 8) ∧
          data[4 * i + 2]? = some ((s.ring r).cfg.fillWord.extractLsb' 16 8) ∧
          data[4 * i + 3]? = some ((s.ring r).cfg.fillWord.extractLsb' 24 8))

/-- RT's wake requests: none for a ring that is not RUNNING; for a direction whose condition holds, HP's winner leaves the pool, its lane is
RESERVED and it is LANE_HELD with its first arrival sequence and its remaining time; the producer direction of the notice ring asks NW and
not HP (R43, R44, R54, R66). That the producer direction is asked first is the model's order (log 34); a due timer is
carried as 1 (log 7). -/
def Obligations.WakeRequestsReserveLanes : Prop :=
  ∀ (r : RingNo) (s : State),
    ((s.ring r).state ≠ .running → s.wakeRequests r = s) ∧
    ((s.ring r).state = .running → s.wakeRequests r = (s.wakeSide r .producer).wakeSide r .consumer) ∧
    (s.header.noticeRing = some r → s.wakeSide r .producer = s.nwEvaluate) ∧
    ∀ side, ¬ (side = .producer ∧ s.header.noticeRing = some r) →
      (¬ (s.ring r).mayWake side → s.wakeSide r side = s) ∧
      (s.winner (.ring r side) = none → s.wakeSide r side = s) ∧
      (∀ e, (s.ring r).mayWake side → s.winner (.ring r side) = some e → (s.master e.master).outst ≠ .none →
        s.wakeSide r side =
          { s with
            hp := { s.hp with list := s.hp.list.erase e },
            rings := s.rings.put r ((s.ring r).setLane side (.reserved e.master)),
            masters := s.masters.put e.master
              { s.master e.master with
                outst := .laneHeld e.rq
                  { ring := r, side := side, window := e.window, seq := e.seq, order := e.order,
                    remaining := e.remaining.map held } } })

/-- HP names the waiter of highest priority and, among equals, the one that parked first; it names none exactly when none waits for the
ring direction or cell (R65, R68). -/
def Obligations.PoolWinnerIsHighestThenEarliest : Prop :=
  ∀ (t : Target) (s : State),
    (s.winner t = none ↔ ∀ e ∈ s.hp.list, e.target ≠ t) ∧
    ∀ e, s.winner t = some e → ∃ pre post, s.hp.list = pre ++ e :: post ∧ e.target = t ∧
      (∀ x ∈ s.hp.list, x.target = t → (s.master x.master).prio.toNat ≤ (s.master e.master).prio.toNat) ∧
      ∀ x ∈ pre, x.target = t → (s.master x.master).prio.toNat < (s.master e.master).prio.toNat

/-- The replay of a woken ring request is admitted again and takes the lane RESERVED for it: it is forwarded when its flow is open (R45, R123);
one that admission, the role or the ring's state answers, or that an edit has brought to a PASS window, frees the lane, with RT's wake
requests (R16, R45); one that misses its cursor is a stray
(R32, R33); a closed flow goes by the ring's policies (R34, R35, R39, R40); and one that must wait again goes back behind every entry that first
parked before it and ahead of every one that first parked after, with its first arrival sequence, remaining time, target and window, or is answered
POOL_FULL (R61, R62). -/
def Obligations.ReplaysUseTheirReservedLane : Prop :=
  ∀ (m : MasterNo) (rq : Request) (k : Woken) (s : State), (s.master m).outst = .laneHeld rq k →
    (s.ring k.ring).lane k.side = .reserved m →
    (s.part ≠ .running →
      exec (.replay m) s =
        .next (((s.answered m (.fault .notReady)).laneFreed k.ring k.side).wakeRequests k.ring)) ∧
    (∀ reason v, s.judge m rq = .fault reason v → reason ≠ .notReady →
      exec (.replay m) s =
        .next
          ((((s.answered m (.fault reason)).noticed (faultNotice reason m rq.addr v .none)).laneFreed k.ring k.side).wakeRequests
            k.ring)) ∧
    (∀ v, s.judge m rq = .forward v →
      exec (.replay m) s =
        .next
          ((((s.phased m (.queued rq)).joined (forwarded m rq (.pass v))).laneFreed k.ring k.side).wakeRequests
            k.ring)) ∧
    (s.part = .running → m ≠ 0 → (s.master m).state = .fenced →
      exec (.replay m) s =
        .next
          ((((s.answered m (.fault .fenced)).noticed (faultNotice .fenced m rq.addr none .none)).laneFreed k.ring
            k.side).wakeRequests k.ring)) ∧
    (∀ w, s.reaches m rq w → winKind (s.window w) = .ring → winMember (s.window w) rq.dir m = false →
      exec (.replay m) s =
        .next
          ((((s.answered m (.fault .access)).noticed
            (faultNotice .access m rq.addr (some w) (.ring (winRing (s.window w))))).laneFreed k.ring k.side).wakeRequests
              k.ring)) ∧
    (∀ (w : WindowNo) (r : RingNo) (reason : Reason), s.reachesRing m rq w r →
      ((s.ring r).state = .off ∧ reason = .ringOff) ∨ ((s.ring r).state = .frozen ∧ reason = .ringFrozen) →
      exec (.replay m) s =
        .next
          ((((s.answered m (.fault reason)).noticed
            (faultNotice reason m rq.addr (some w) (.ring r))).laneFreed k.ring k.side).wakeRequests k.ring)) ∧
    ∀ w, s.reachesRing m rq w k.ring → (s.ring k.ring).state = .running → Dir.side rq.dir = k.side →
      (¬ s.atCursor rq w k.ring → (s.ring k.ring).cfg.stray = .fault →
        exec (.replay m) s =
          .next
            (({ s.answered m (.fault .stray) with
                rings := s.rings.put k.ring
                  { (s.ring k.ring).setLane k.side .free with strays := (s.ring k.ring).strays + 1 } }.noticed
              (faultNotice .stray m rq.addr (some w) (.ring k.ring))).wakeRequests k.ring)) ∧
      (¬ s.atCursor rq w k.ring → (s.ring k.ring).cfg.stray = .freeze → ∃ q : Ring,
        q = (s.ring k.ring).setLane k.side .free ∧
        exec (.replay m) s =
          .next
            { s.answered m (.fault .stray) with
              rings := s.rings.put k.ring
                { q with
                  state := .frozen, strays := q.strays + 1, producer := q.producer.detach,
                  consumer := q.consumer.detach },
              hand :=
                { s.hand with
                  notices := s.hand.notices ++
                    [faultNotice .stray m rq.addr (some w) (.ring k.ring),
                     { kind := .frozen, master := m, window := some w, subject := .ring k.ring, reason := none,
                       addr := some rq.addr, detail := .none }],
                  cancelFreeze := s.hand.cancelFreeze.put k.ring true,
                  cadStop := s.hand.cadStop.put k.ring true } }) ∧
      (s.atCursor rq w k.ring →
        ((rq.dir = .write ∧ (s.ring k.ring).fill < (s.ring k.ring).cfg.slotCount) ∨
          (rq.dir = .read ∧ 1 ≤ (s.ring k.ring).fill) →
          exec (.replay m) s =
            .next
              ({ s.phased m (.queued rq) with
                  rings := s.rings.put k.ring ((s.ring k.ring).setLane k.side (.busy m false)) }.joined
                (forwarded m rq (.ring k.ring k.side w)))) ∧
        (rq.dir = .write → (s.ring k.ring).cfg.slotCount ≤ (s.ring k.ring).fill →
          (s.ring k.ring).cfg.overrun = .overwrite → (s.ring k.ring).consumer = .free →
          exec (.replay m) s =
            .next
              ((({ s.phased m (.queued rq) with
                  rings := s.rings.put k.ring
                    { s.ring k.ring with
                      producer := .busy m false, ri := ((s.ring k.ring).ri + 1) % (s.ring k.ring).cfg.slotCount, ro := 0,
                      fill := (s.ring k.ring).fill - 1, drops := (s.ring k.ring).drops + 1 } }.noticed
                { kind := .drop, master := m, window := some w, subject := .ring k.ring, reason := none,
                  addr := some (winBase (s.window w) +
                    BitVec.ofNat 32 ((s.ring k.ring).ri * (s.ring k.ring).cfg.slotSize)),
                  detail := .drop (decide (0 < (s.ring k.ring).ro)) }).joined
                (forwarded m rq (.ring k.ring .producer w))).wakeRequests k.ring)) ∧
        (∀ reason : Reason,
          (rq.dir = .write ∧ (s.ring k.ring).cfg.slotCount ≤ (s.ring k.ring).fill ∧
              (s.ring k.ring).cfg.overrun = .refuse ∧ reason = .full) ∨
            (rq.dir = .read ∧ (s.ring k.ring).fill = 0 ∧ (s.ring k.ring).cfg.underrun = .refuse ∧ reason = .empty) →
          exec (.replay m) s =
            .next
              ((((s.answered m (.fault reason)).noticed
                (faultNotice reason m rq.addr (some w) (.ring k.ring))).laneFreed k.ring k.side).wakeRequests k.ring)) ∧
        (rq.dir = .read → (s.ring k.ring).fill = 0 → (s.ring k.ring).cfg.underrun = .fill →
          exec (.replay m) s =
            .next
              ({ s.answered m (.done (bytesOf (List.replicate (rq.len / 4) (s.ring k.ring).cfg.fillWord))) with
                  rings := s.rings.put k.ring
                    { s.ring k.ring with consumer := .free, fills := (s.ring k.ring).fills + 1 } }.wakeRequests
                k.ring)) ∧
        ∀ cause : Cause,
          (rq.dir = .write ∧ (s.ring k.ring).cfg.slotCount ≤ (s.ring k.ring).fill ∧
              (s.ring k.ring).cfg.overrun = .hold ∧ cause = .full) ∨
            (rq.dir = .write ∧ (s.ring k.ring).cfg.slotCount ≤ (s.ring k.ring).fill ∧
              (s.ring k.ring).cfg.overrun = .overwrite ∧ (s.ring k.ring).consumer ≠ .free ∧ cause = .lane) ∨
            (rq.dir = .read ∧ (s.ring k.ring).fill = 0 ∧ (s.ring k.ring).cfg.underrun = .hold ∧ cause = .empty) →
          (∀ i pre post, s.freeEntry i → s.hp.list = pre ++ post → (∀ x ∈ pre, x.order < k.order) →
            (∀ x ∈ post, k.order < x.order) →
            exec (.replay m) s =
              .next
                (({ s.phased m (.parked rq) with
                    hp :=
                      { s.hp with
                        list := pre ++
                          ({ slot := i, master := m, rq := rq, window := k.window, target := .ring k.ring k.side,
                             cause := cause, seq := k.seq, order := k.order, remaining := k.remaining } : ParkEntry) ::
                          post } }.laneFreed k.ring k.side).wakeRequests k.ring)) ∧
          (s.poolFull →
            exec (.replay m) s =
              .next
                ((((s.answered m (.fault .poolFull)).noticed
                  (faultNotice .poolFull m rq.addr (some w) (.ring k.ring))).laneFreed k.ring k.side).wakeRequests
                    k.ring)))

/-! ### The downstream port -/

/-- A joining entry is issued at once on an IDLE link and goes to the tail of the queue otherwise (R136, R138, R149). -/
def Obligations.JoiningWorkIssuedOrQueued : Prop :=
  ∀ (src : Source) (e : QueueEntry) (pre post : List QueueEntry) (s : State),
    s.hand.joins = pre ++ e :: post → e.source = src → (∀ x ∈ pre, x.source ≠ src) →
    (s.dn.link = .idle →
      exec (.queueJoin src) s =
        .next ({ s.quiet with hand := { s.hand with joins := pre ++ post } }.issuedWith e s.dn.queue)) ∧
    (s.dn.link ≠ .idle →
      exec (.queueJoin src) s =
        .next
          { s.quiet with
            hand := { s.hand with joins := pre ++ post }, dn := { s.dn with queue := s.dn.queue ++ [e] } })

/-- On an IDLE link with work waiting the arbiter issues the entry of highest priority and, among equals, the one that joined first; the
others keep their order (R135, R137, R138). -/
def Obligations.ArbiterIssuesHighestThenEarliest : Prop :=
  ∀ s : State,
    (s.dn.link ≠ .idle ∨ s.dn.queue = [] → s.arbitrate = s) ∧
    (s.dn.link = .idle → s.dn.queue ≠ [] → ∃ pre e post, s.dn.queue = pre ++ e :: post ∧
      (∀ x ∈ s.dn.queue, s.sourcePrio x.source ≤ s.sourcePrio e.source) ∧
      (∀ x ∈ pre, s.sourcePrio x.source < s.sourcePrio e.source) ∧
      s.arbitrate = s.issuedWith e (pre ++ post))

/-- A DONE or FAULT with the in-flight tag, a RETRY beyond the budget and the expiry of the response timer end the request: the link is
IDLE, the result goes to its owner and the arbiter chooses (R140, R142, R143). A RETRY within the budget presents the same request again with
the same tag, one more retry counted and a fresh response timer, and the arbiter is not asked (R141). A late DONE that is taken for this request may
carry data of another length (R139, R149): a WRITE ends without data, a READ with as many bytes as it asked for, which are not stated (log 38). -/
def Obligations.ResponsesEndOrReissueTheRequest : Prop :=
  ∀ (f : InFlight) (s : State), s.dn.link = .issued f →
    (∀ data, f.entry.dir = .write →
      exec (.downstreamDone f.tag data) s = .next (s.flightEnded f.entry (.done [])).arbitrate) ∧
    (∀ data, f.entry.dir = .read → data.length = f.entry.len →
      exec (.downstreamDone f.tag data) s = .next (s.flightEnded f.entry (.done data)).arbitrate) ∧
    (∀ data, f.entry.dir = .read → data.length ≠ f.entry.len → ∃ bytes : List Byte, bytes.length = f.entry.len ∧
      exec (.downstreamDone f.tag data) s =
        .next ({ s with free := s.free + 1 }.flightEnded f.entry (.done bytes)).arbitrate) ∧
    exec (.downstreamFault f.tag) s = .next (s.flightEnded f.entry .fault).arbitrate ∧
    (s.header.retryBudget.toNat ≤ f.retries.toNat →
      exec (.downstreamRetry f.tag) s = .next (s.flightEnded f.entry .fault).arbitrate) ∧
    (f.timer = 0 → exec .responseTimeout s = .next (s.flightEnded f.entry .timeout).arbitrate) ∧
    (f.retries.toNat < s.header.retryBudget.toNat →
      exec (.downstreamRetry f.tag) s =
        .next
          { s with
            dn := { s.dn with link := .issued { f with retries := f.retries + 1, timer := s.header.respLimit } },
            out := [.present f.tag f.entry.dir f.entry.addr f.entry.len f.entry.data] })

/-- Any other response is discarded with no effect on any block; one with the settling tag and the end of the settling time end SETTLING,
and the arbiter chooses (R139, R149). -/
def Obligations.OtherResponsesDiscarded : Prop :=
  ∀ (tag : BitVec 4) (data : List Byte) (s : State),
    ((s.dn.link = .idle ∨ (∃ f, s.dn.link = .issued f ∧ f.tag ≠ tag) ∨
        (∃ t left, s.dn.link = .settling t left ∧ t ≠ tag)) →
      exec (.downstreamDone tag data) s = .next s.quiet ∧ exec (.downstreamRetry tag) s = .next s.quiet ∧
        exec (.downstreamFault tag) s = .next s.quiet) ∧
    (∀ left, s.dn.link = .settling tag left →
      exec (.downstreamDone tag data) s = .next { s.quiet with dn := { s.dn with link := .idle } }.arbitrate ∧
        exec (.downstreamRetry tag) s = .next { s.quiet with dn := { s.dn with link := .idle } }.arbitrate ∧
        exec (.downstreamFault tag) s = .next { s.quiet with dn := { s.dn with link := .idle } }.arbitrate) ∧
    (s.dn.link = .settling tag 0 →
      exec .settlingEnd s = .next { s.quiet with dn := { s.dn with link := .idle } }.arbitrate)

/-! ### Results taken by their owners -/

/-- UP answers a PASS request with its downstream result, a failure with its FAULT notice (R14, R144). That the notice carries the window of the
admission, also after an edit, is the model's reading (log 15). -/
def Obligations.PassResultsAnswered : Prop :=
  ∀ (m : MasterNo) (rq : Request) (x : DownResult) (w : Option WindowNo) (pre post : List DownResult) (s : State),
    s.hand.results = pre ++ x :: post → x.entry.source = .master m → x.entry.purpose = .pass w →
    (∀ y ∈ pre, y.entry.source = .master m → ∀ v, y.entry.purpose ≠ .pass v) →
    (s.master m).outst = .inFlight rq →
    (∀ data, x.ending = .done data →
      exec (.passResult m) s =
        .next { s.answered m (.done data) with hand := { s.hand with results := pre ++ post } }) ∧
    (x.ending = .fault →
      exec (.passResult m) s =
        .next ({ s.answered m (.fault .downFault) with hand := { s.hand with results := pre ++ post } }.noticed
          (faultNotice .downFault m x.entry.addr w .none))) ∧
    (x.ending = .timeout →
      exec (.passResult m) s =
        .next ({ s.answered m (.fault .downTimeout) with hand := { s.hand with results := pre ++ post } }.noticed
          (faultNotice .downTimeout m x.entry.addr w .none)))

/-- A producer write's DONE advances WO by its length; a full slot is committed, with CM signalled; the master is answered DONE, the lane is
FREE and RT makes its wake requests (R37, R106). On a detached lane nothing but the lane changes in the ring (R49). -/
def Obligations.ProducerDoneAdvancesOrCommits : Prop :=
  ∀ (r : RingNo) (m q : MasterNo) (rq : Request) (w : WindowNo) (x : DownResult) (data : List Byte) (s : State),
    s.hand.results.find? (fun y => y.forRing r .producer && y.ending.isDone) = some x →
    x.entry.source = .master m → x.entry.purpose = .ring r .producer w → x.ending = .done data →
    (s.master m).outst = .inFlight rq →
    ((s.ring r).producer = .busy q false → (s.ring r).wo + x.entry.len ≠ (s.ring r).cfg.slotSize →
      exec (.ringProducerDone r) s =
        .next
          ({ s.answered m (.done []) with
              rings := s.rings.put r { s.ring r with producer := .free, wo := (s.ring r).wo + x.entry.len },
              hand := { s.hand with results := s.hand.results.erase x } }.wakeRequests r)) ∧
    (∀ v, (s.ring r).producer = .busy q false → (s.ring r).wo + x.entry.len = (s.ring r).cfg.slotSize →
      s.boundWindow r = some v →
      exec (.ringProducerDone r) s =
        .next
          ({ s.answered m (.done []) with
              rings := s.rings.put r
                { s.ring r with
                  producer := .free, wi := ((s.ring r).wi + 1) % (s.ring r).cfg.slotCount, wo := 0,
                  fill := (s.ring r).fill + 1, commits := (s.ring r).commits + 1 },
              hand :=
                { s.hand with
                  results := s.hand.results.erase x,
                  commits := s.hand.commits ++
                    [({ ring := r, master := m,
                        addr := winBase (s.window v) +
                          BitVec.ofNat 32 ((s.ring r).wi * (s.ring r).cfg.slotSize) } : CommitSignal)] } }.wakeRequests r)) ∧
    ((s.ring r).producer = .busy q true →
      exec (.ringProducerDone r) s =
        .next
          ({ s.answered m (.done []) with
              rings := s.rings.put r { s.ring r with producer := .free },
              hand := { s.hand with results := s.hand.results.erase x } }.wakeRequests r))

/-- The notice writer's own producer access completes in the same way with no answer upstream, a committed slot signalled with master 0
(R54, R106, R145), and RT leaves word for NW of the lane's mark (which block judges the mark when both have it is the model's choice,
log 16). -/
def Obligations.NoticeWriteCommitsLikeAnyWrite : Prop :=
  ∀ (r : RingNo) (q : MasterNo) (d : Bool) (x : DownResult) (data : List Byte) (s : State),
    s.hand.results.find? (fun y => y.forRing r .producer && y.ending.isDone) = some x →
    x.entry.source = .noticeWriter → x.entry.purpose = .notice r → x.ending = .done data →
    (s.ring r).producer = .busy q d →
    (d = true ∨ (s.ring r).wo + x.entry.len ≠ (s.ring r).cfg.slotSize →
      exec (.ringProducerDone r) s =
        .next
          ({ s.quiet with
              rings := s.rings.put r
                { s.ring r with
                  producer := .free, wo := if d then (s.ring r).wo else (s.ring r).wo + x.entry.len },
              hand :=
                { s.hand with
                  results := s.hand.results.erase x,
                  nwResult := s.hand.nwResult.map fun y : NoticeResult =>
                    if y.ring = r then { y with detached := some d } else y } }.wakeRequests r)) ∧
    (∀ v, d = false → (s.ring r).wo + x.entry.len = (s.ring r).cfg.slotSize → s.boundWindow r = some v →
      exec (.ringProducerDone r) s =
        .next
          ({ s.quiet with
              rings := s.rings.put r
                { s.ring r with
                  producer := .free, wi := ((s.ring r).wi + 1) % (s.ring r).cfg.slotCount, wo := 0,
                  fill := (s.ring r).fill + 1, commits := (s.ring r).commits + 1 },
              hand :=
                { s.hand with
                  results := s.hand.results.erase x,
                  commits := s.hand.commits ++
                    [({ ring := r, master := 0,
                        addr := winBase (s.window v) +
                          BitVec.ofNat 32 ((s.ring r).wi * (s.ring r).cfg.slotSize) } : CommitSignal)],
                  nwResult := s.hand.nwResult.map fun y : NoticeResult =>
                    if y.ring = r then { y with detached := some false } else y } }.wakeRequests r))

/-- A consumer read's DONE advances RO by its length; a drained slot is released; the master is answered DONE with the data, the lane is FREE
and RT makes its wake requests (R41). On a detached lane nothing but the lane changes in the ring (R49). -/
def Obligations.ConsumerDoneAdvancesOrReleases : Prop :=
  ∀ (r : RingNo) (m q : MasterNo) (rq : Request) (w : WindowNo) (x : DownResult) (data : List Byte) (s : State),
    s.hand.results.find? (fun y => y.forRing r .consumer && y.ending.isDone) = some x →
    x.entry.source = .master m → x.entry.purpose = .ring r .consumer w → x.ending = .done data →
    (s.master m).outst = .inFlight rq →
    ((s.ring r).consumer = .busy q false → (s.ring r).ro + x.entry.len ≠ (s.ring r).cfg.slotSize →
      exec (.ringConsumerDone r) s =
        .next
          ({ s.answered m (.done data) with
              rings := s.rings.put r { s.ring r with consumer := .free, ro := (s.ring r).ro + x.entry.len },
              hand := { s.hand with results := s.hand.results.erase x } }.wakeRequests r)) ∧
    ((s.ring r).consumer = .busy q false → (s.ring r).ro + x.entry.len = (s.ring r).cfg.slotSize →
      exec (.ringConsumerDone r) s =
        .next
          ({ s.answered m (.done data) with
              rings := s.rings.put r
                { s.ring r with
                  consumer := .free, ri := ((s.ring r).ri + 1) % (s.ring r).cfg.slotCount, ro := 0,
                  fill := (s.ring r).fill - 1, releases := (s.ring r).releases + 1 },
              hand := { s.hand with results := s.hand.results.erase x } }.wakeRequests r)) ∧
    ((s.ring r).consumer = .busy q true →
      exec (.ringConsumerDone r) s =
        .next
          ({ s.answered m (.done data) with
              rings := s.rings.put r { s.ring r with consumer := .free },
              hand := { s.hand with results := s.hand.results.erase x } }.wakeRequests r))

/-- A ring access that ends in FAULT or TIMEOUT changes no cursor, fill or counter: the master is answered DOWN_FAULT or DOWN_TIMEOUT with its
notice, the lane is FREE and RT makes its wake requests, detached or not (R38, R49, R52). The notice writer's own failed access frees the lane in the
same way with no answer upstream and no notice, and RT leaves word for NW of the lane's mark (R54, R145, R162; log 16). That a notice carries the window
of the admission is the model's reading (log 15). -/
def Obligations.FailedRingAccessKeepsCursors : Prop :=
  (∀ (r : RingNo) (q : MasterNo) (d : Bool) (x : DownResult) (s : State),
    s.hand.results.find? (fun y => y.forRing r .producer && !y.ending.isDone) = some x →
    x.entry.source = .noticeWriter → x.entry.purpose = .notice r → x.ending = .fault ∨ x.ending = .timeout →
    (s.ring r).producer = .busy q d →
    exec (.ringAccessFailed r .producer) s =
      .next
        ({ s.quiet with
            rings := s.rings.put r { s.ring r with producer := .free },
            hand :=
              { s.hand with
                results := s.hand.results.erase x,
                nwResult := s.hand.nwResult.map fun y : NoticeResult =>
                  if y.ring = r then { y with detached := some d } else y } }.wakeRequests r)) ∧
  ∀ (r : RingNo) (side : Side) (m q : MasterNo) (d : Bool) (rq : Request) (w : WindowNo) (x : DownResult) (s : State),
    s.hand.results.find? (fun y => y.forRing r side && !y.ending.isDone) = some x →
    x.entry.source = .master m → x.entry.purpose = .ring r side w → (s.master m).outst = .inFlight rq →
    (s.ring r).lane side = .busy q d →
    ∀ reason, (x.ending = .fault ∧ reason = .downFault) ∨ (x.ending = .timeout ∧ reason = .downTimeout) →
      exec (.ringAccessFailed r side) s =
        .next
          (({ s.answered m (.fault reason) with
              rings := s.rings.put r ((s.ring r).setLane side .free),
              hand := { s.hand with results := s.hand.results.erase x } }.noticed
            (faultNotice reason m x.entry.addr (some w) (.ring r))).wakeRequests r)

/-! ### The notice writer -/

/-- NW issues the head record when the writer is IDLE, the part RUNNING and the notice ring bound, RUNNING, with its producer lane FREE and F
below N: the record takes the current lost count, the lane is BUSY with master 0, and a 64-byte write to the producer cursor goes to DN; when
one of these fails it issues nothing (R54, R158, R159, R164). That a notice ring without a window is one of them is the model's reading (log 32). -/
def Obligations.NoticeIssuedUnderItsConditions : Prop :=
  ∀ (r : RingNo) (s : State),
    (∀ rec rest w, s.nw.writer = .idle → s.nw.queue = rec :: rest → s.header.noticeRing = some r →
      s.boundWindow r = some w → s.part = .running → (s.ring r).state = .running → (s.ring r).producer = .free →
      (s.ring r).fill < (s.ring r).cfg.slotCount →
      s.nwEvaluate =
        { s with
          nw := { s.nw with queue := rest, writer := .writing { rec with lost := s.nw.lost } },
          rings := s.rings.put r { s.ring r with producer := .busy 0 false },
          hand :=
            { s.hand with
              joins := s.hand.joins ++
                [({ source := .noticeWriter, purpose := .notice r, dir := .write,
                    addr := winBase (s.window w) +
                      BitVec.ofNat 32 ((s.ring r).wi * (s.ring r).cfg.slotSize) + BitVec.ofNat 32 (s.ring r).wo,
                    len := 64, data := recordBytes { rec with lost := s.nw.lost } } : QueueEntry)] } }) ∧
    (s.nw.writer ≠ .idle ∨ s.nw.queue = [] ∨ s.header.noticeRing = none ∨ s.part ≠ .running → s.nwEvaluate = s) ∧
    (s.header.noticeRing = some r → s.boundWindow r = none → s.nwEvaluate = s) ∧
    (s.header.noticeRing = some r →
      ((s.ring r).state ≠ .running ∨ (s.ring r).producer ≠ .free ∨ (s.ring r).cfg.slotCount ≤ (s.ring r).fill) →
      s.nwEvaluate = s)

/-- The result of a notice write: delivered when the lane was attached, back to the head of the queue with the writer IDLE when it was
detached, back to the head with the writer STALLED when the write failed (R160, R161, R162). NW judges the mark by what RT found, or by the lane
when RT has not yet taken the completion (log 16). -/
def Obligations.NoticeWriteResults : Prop :=
  ∀ (x : NoticeResult) (rec : NoticeRecord) (s : State), s.hand.nwResult = some x → s.nw.writer = .writing rec →
    (∀ data, x.ending = .done data →
      (x.detached = some false ∨ (x.detached = none ∧ ∃ q, (s.ring x.ring).producer = .busy q false)) →
      exec .noticeWriteResult s =
        .next
          { s.quiet with hand := { s.hand with nwResult := none }, nw := { s.nw with writer := .idle } }.nwEvaluate) ∧
    (∀ data, x.ending = .done data →
      (x.detached = some true ∨ (x.detached = none ∧ ∃ q, (s.ring x.ring).producer = .busy q true)) →
      exec .noticeWriteResult s =
        .next
          { s.quiet with
            hand := { s.hand with nwResult := none },
            nw := { s.nw with queue := rec :: s.nw.queue, writer := .idle } }.nwEvaluate) ∧
    (x.ending = .fault ∨ x.ending = .timeout →
      exec .noticeWriteResult s =
        .next
          { s.quiet with
            hand := { s.hand with nwResult := none },
            nw := { s.nw with queue := rec :: s.nw.queue, writer := .stalled } })

/-- A notice of a disabled kind is discarded and takes no number; an enabled one is numbered, stamped and queued at the tail, after which NW
evaluates its conditions; one that finds all 8 places taken keeps its number and is counted as lost, up to 65535 (R155, R156, R157, R158). -/
def Obligations.NoticesCreatedMaskedOrLost : Prop :=
  ∀ (i : Nat) (n : Notice) (s : State), s.hand.notices[i]? = some n →
    (s.nw.mask.getLsbD (kindCode n.kind - 1) = false →
      exec (.noticeHandoff i) s =
        .next { s.quiet with hand := { s.hand with notices := s.hand.notices.eraseIdx i } }) ∧
    (s.nw.mask.getLsbD (kindCode n.kind - 1) = true →
      s.nw.queue.length + (match s.nw.writer with | .writing _ => 1 | .idle => 0 | .stalled => 0) < 8 →
      exec (.noticeHandoff i) s =
        .next
          { s.quiet with
            hand := { s.hand with notices := s.hand.notices.eraseIdx i },
            nw :=
              { s.nw with
                seq := s.nw.seq + 1,
                queue := s.nw.queue ++
                  [({ notice := n, seq := s.nw.seq, stamp := s.timestamp, lost := 0 } : NoticeRecord)] } }.nwEvaluate) ∧
    (s.nw.mask.getLsbD (kindCode n.kind - 1) = true →
      8 ≤ s.nw.queue.length + (match s.nw.writer with | .writing _ => 1 | .idle => 0 | .stalled => 0) →
      exec (.noticeHandoff i) s =
        .next
          { s.quiet with
            hand := { s.hand with notices := s.hand.notices.eraseIdx i },
            nw :=
              { s.nw with
                seq := s.nw.seq + 1, lost := if s.nw.lost = 65535 then 65535 else s.nw.lost + 1 } })

/-- TAKE_NOTICE returns the head record whole with the current lost count, or nothing (R165); SET_MASK sets the working mask and CLEAR_LOST the
lost count (R166); CLEAR_STALL takes the writer from STALLED to IDLE and lets NW issue, and is refused otherwise (R163). Each is answered in the
step that takes it (R190). That a mask with bit 7 set is refused rests on R205 (log 28). -/
def Obligations.NoticeCommands : Prop :=
  ∀ s : State, s.linkReady →
    (∀ rec rest, s.nw.queue = rec :: rest →
      exec .takeNotice s =
        .next
          { s.responded 0x11 .ok (recordBytes { rec with lost := s.nw.lost }) with nw := { s.nw with queue := rest } } ∧
      (recordBytes { rec with lost := s.nw.lost }).length = 64) ∧
    (s.nw.queue = [] → exec .takeNotice s = .next (s.responded 0x11 .ok [])) ∧
    (∀ mask : BitVec 7, exec (.setMask (mask.zeroExtend 8)) s =
      .next { s.responded 0x12 .ok [] with nw := { s.nw with mask := mask } }) ∧
    (∀ b : Byte, 128 ≤ b.toNat → exec (.setMask b) s = .next (s.responded 0x12 .badArg [])) ∧
    exec .clearLost s = .next { s.responded 0x14 .ok [] with nw := { s.nw with lost := 0 } } ∧
    (s.nw.writer = .stalled →
      exec .clearStall s =
        .next
          { s.responded 0x13 .ok [] with
            nw := { s.nw with writer := .idle } }.nwEvaluate) ∧
    (s.nw.writer ≠ .stalled → exec .clearStall s = .next (s.responded 0x13 .badState []))

/-! ### The cadence monitor -/

/-- An interval is SLOW above T + t, FAST below T - t and ON otherwise (R107). A commit of a monitored ring: the first only starts the count; a
later one measures, and its class is applied by the confirm count with a CADENCE notice at each change; both set the elapsed time to 0 and arm the watch timer with T + t (R106, R108, R109, R112). A ring that is not
monitored is not touched (R104). The window of a notice about a ring that is no longer bound is a free value (log 36). -/
def Obligations.CommitsMeasureTheCadence : Prop :=
  (∀ (cfg : RingConfig) (i : BitVec 16),
    (cfg.target.toNat + cfg.tolerance.toNat < i.toNat → intervalClass cfg i = .slow) ∧
    (i.toNat + cfg.tolerance.toNat < cfg.target.toNat → intervalClass cfg i = .fast) ∧
    (cfg.target.toNat ≤ i.toNat + cfg.tolerance.toNat → i.toNat ≤ cfg.target.toNat + cfg.tolerance.toNat →
      intervalClass cfg i = .on)) ∧
  ∀ (r : RingNo) (c : CommitSignal) (pre post : List CommitSignal) (k : Cadence) (s : State),
    s.hand.commits = pre ++ c :: post → c.ring = r → (∀ y ∈ pre, y.ring ≠ r) → s.cad r = k →
    ((s.ring r).state ≠ .running ∨ (s.ring r).cfg.target = 0 →
      exec (.cadenceCommit r) s = .next { s.quiet with hand := { s.hand with commits := pre ++ post } }) ∧
    ((s.ring r).state = .running → (s.ring r).cfg.target ≠ 0 →
      let watch : Option (BitVec 17) :=
        some (BitVec.ofNat 17 ((s.ring r).cfg.target.toNat + (s.ring r).cfg.tolerance.toNat))
      let s1 : State := { s.quiet with hand := { s.hand with commits := pre ++ post } }
      (k.elapsed = none →
        exec (.cadenceCommit r) s =
          .next { s1 with cadence := s.cadence.put r { k with elapsed := some 0, watch := watch } }) ∧
      (∀ i, k.elapsed = some i → intervalClass (s.ring r).cfg i = k.cls →
        exec (.cadenceCommit r) s =
          .next
            { s1 with
              cadence := s.cadence.put r
                { k with candidate := none, run := 0, elapsed := some 0, last := some i, watch := watch } }) ∧
      (∀ i x n, k.elapsed = some i → intervalClass (s.ring r).cfg i = x → x ≠ k.cls →
        n = (if k.candidate = some x then k.run + 1 else 1) →
        (n ≠ (s.ring r).cfg.confirm →
          exec (.cadenceCommit r) s =
            .next
              { s1 with
                cadence := s.cadence.put r
                  { k with candidate := some x, run := n, elapsed := some 0, last := some i, watch := watch } }) ∧
        (n = (s.ring r).cfg.confirm →
          let s2 : State :=
            { s1 with
              cadence := s.cadence.put r
                { cls := x, candidate := none, run := 0, elapsed := some 0, last := some i, watch := watch } }
          let note : WindowNo → Notice := fun v =>
            { kind := .cadence, master := c.master, window := some v, subject := .ring r, reason := none,
              addr := some c.addr, detail := .cadence k.cls x i false }
          (∀ v, s.boundWindow r = some v → exec (.cadenceCommit r) s = .next (s2.noticed (note v))) ∧
          (s.boundWindow r = none → ∃ v,
            exec (.cadenceCommit r) s = .next ({ s2 with free := s.free + 1 }.noticed (note v))))))

/-- The watch timer's expiry clears the candidate and makes the class SLOW at once, with a notice whose interval is the elapsed time when the
class was another (R110, R112); CM's taking of a departure from RUNNING stops the timer and keeps the rest (R113); its taking of a start sets the
start values (R114). The window of a notice about a ring that is no longer bound is a free value (log 36), and a departure and a start of one ring may be
taken in either order (log 39). -/
def Obligations.WatchExpiryStopAndStart : Prop :=
  ∀ (r : RingNo) (k : Cadence) (s : State), s.cad r = k →
    (k.watch = some 0 → k.cls = .slow →
      exec (.watchExpiry r) s =
        .next { s.quiet with cadence := s.cadence.put r { k with watch := none, candidate := none, run := 0 } }) ∧
    (∀ i, k.watch = some 0 → k.cls ≠ .slow → k.elapsed = some i →
      let s2 : State :=
        { s.quiet with
          cadence := s.cadence.put r { k with watch := none, candidate := none, run := 0, cls := .slow } }
      let note : WindowNo → Notice := fun v =>
        { kind := .cadence, master := 0, window := some v, subject := .ring r, reason := none, addr := none,
          detail := .cadence k.cls .slow i true }
      (∀ v, s.boundWindow r = some v → exec (.watchExpiry r) s = .next (s2.noticed (note v))) ∧
      (s.boundWindow r = none → ∃ v,
        exec (.watchExpiry r) s = .next ({ s2 with free := s.free + 1 }.noticed (note v)))) ∧
    (s.hand.cadStop.nth r = true →
      exec (.stopCadence r) s =
        .next
          { s.quiet with
            hand := { s.hand with cadStop := s.hand.cadStop.put r false },
            cadence := s.cadence.put r { k with watch := none } }) ∧
    (s.hand.cadStart.nth r = true →
      exec (.cadenceRingStart r) s =
        .next
          { s.quiet with
            hand := { s.hand with cadStart := s.hand.cadStart.put r false },
            cadence := s.cadence.put r
              { cls := .unknown, candidate := none, run := 0, elapsed := none, last := none, watch := none } })

/-! ### Time -/

/-- A tick advances the timestamp, every present remaining time, the lease divider with a millisecond step at the thousandth, the response timer
or the settling time, and the elapsed times and watch timers of monitored rings, and nothing else (R64, R94, R105, R109, R138, R149, R185); while
RESET_N is asserted there is none (R186). A timer that is due stays at 0 until its event is taken (log 7). All blocks take a tick in one step (log 37). The millisecond step is an event of its own (log 23): it decreases every present lease and nothing else;
with none due it changes nothing, which is the model's choice (log 3). -/
def Obligations.TicksAndMillisecondStepsAdvanceTheTimers : Prop :=
  ∀ s : State,
    (s.resetAsserted = true → exec .tick s = .next s.quiet) ∧
    (s.resetAsserted = false → ∃ t, exec .tick s = .next t ∧
      t = { s.quiet with
            timestamp := s.timestamp + 1, hp := t.hp, cu := t.cu, dn := { s.dn with link := t.dn.link },
            cadence := t.cadence } ∧
      t.hp = { s.hp with list := s.hp.list.map fun e => { e with remaining := tickedDown e.remaining } } ∧
      (s.cu.divider < 999 → t.cu = { s.cu with divider := s.cu.divider + 1 }) ∧
      (s.cu.divider = 999 → t.cu = { divider := 0, msDue := s.cu.msDue + 1 }) ∧
      (s.dn.link = .idle → t.dn.link = .idle) ∧
      (∀ f, s.dn.link = .issued f →
        t.dn.link = .issued { f with timer := if f.timer = 0 then 0 else f.timer - 1 }) ∧
      (∀ tag left, s.dn.link = .settling tag left →
        t.dn.link = .settling tag (if left = 0 then 0 else left - 1)) ∧
      ∀ r,
        ((s.ring r).state = .running ∧ (s.ring r).cfg.target ≠ 0 →
          t.cad r =
            { s.cad r with
              elapsed := (s.cad r).elapsed.map fun x => if x = 65535 then 65535 else x + 1,
              watch := tickedDown (s.cad r).watch }) ∧
        ((s.ring r).state ≠ .running ∨ (s.ring r).cfg.target = 0 → t.cad r = s.cad r)) ∧
    (s.cu.msDue = 0 → exec .millisecondStep s = .next s.quiet) ∧
    (s.cu.msDue ≠ 0 → ∃ t, exec .millisecondStep s = .next t ∧
      t = { s.quiet with cu := { s.cu with msDue := s.cu.msDue - 1 }, cells := t.cells } ∧
      ∀ c, t.cell c = { s.cell c with lease := tickedDown (s.cell c).lease })

/-- R70: a ring entry whose remaining time has reached 0 leaves the pool; its master is answered FAULT HOLD_EXPIRED with the FAULT notice of R70;
the ring record and everything else is not touched. -/
def Obligations.RingEntryExpires : Prop :=
  ∀ (i : EntryNo) (e : ParkEntry) (pre post : List ParkEntry) (r : RingNo) (side : Side) (s : State),
    s.hp.list = pre ++ e :: post → e.slot = i → (∀ x ∈ pre, x.slot ≠ i) → e.target = .ring r side →
    e.remaining = some 0 → (s.master e.master).outst = .parked e.rq →
    exec (.ringParkExpiry i) s =
      .next
        ({ s.answered e.master (.fault .holdExpired) with hp := { s.hp with list := pre ++ post } }.noticed
          { kind := .fault, master := e.master, window := some e.window, subject := .ring r,
            reason := some .holdExpired, addr := some e.rq.addr, detail := .none })

/-- A claim entry whose remaining time has reached 0 leaves the pool, and CU answers DONE with the reply word of the moment, waited flag set; the
cell is not touched and no notice is given (R71, R82, R87). -/
def Obligations.ClaimEntryExpires : Prop :=
  ∀ (i : EntryNo) (e : ParkEntry) (pre post : List ParkEntry) (c : CellNo) (o : MasterNo) (s : State),
    s.hp.list = pre ++ e :: post → e.slot = i → (∀ x ∈ pre, x.slot ≠ i) → e.target = .cell c →
    e.remaining = some 0 → (s.master e.master).outst = .parked e.rq → (s.cell c).owner = some o →
    exec (.claimParkExpiry i) s =
      .next
        { s.answered e.master (.done [BitVec.ofNat 8 o.val, (s.cell c).gen, 0, 128]) with
          hp := { s.hp with list := pre ++ post } }

/-- The three forced ends of an ownership, by a lease expiry, FREE_CELL and DROP_MASTER: the owner becomes the lapsed owner, the winning waiter is
handed the cell and answered DONE with 0 or the cell is free, and the notice carries the former owner and the generation of the ended ownership
(R89, R90, R95, R97, R98, R99). The window of a notice for a cell that no window covers is none (log 17). FREE_CELL is refused BAD_ARG for a number
above 63, and BAD_STATE when the part is not RUNNING or the cell is free (R97). -/
def Obligations.ForcedEndsOfOwnership : Prop :=
  (∀ s : State, s.linkReady →
    (∀ b : Byte, 64 ≤ b.toNat → exec (.freeCell b) s = .next (s.responded 0x0B .badArg [])) ∧
    ∀ c : CellNo, s.part ≠ .running ∨ (s.cell c).owner = none →
      exec (.freeCell (BitVec.ofNat 8 c.val)) s = .next (s.responded 0x0B .badState [])) ∧
  ∀ (c : CellNo) (o : MasterNo) (u v : State), (u.cell c).owner = some o →
    (((∀ e ∈ u.hp.list, e.target ≠ .cell c) ∧
        v = { u with cells := u.cells.put c { u.cell c with owner := none, lease := none, lapsed := some o } }) ∨
      (∃ e, u.winner (.cell c) = some e ∧ e.master ≠ o ∧ (u.master e.master).outst ≠ .none ∧
        v =
          { u with
            masters := u.masters.put e.master { u.master e.master with outst := .none },
            out := u.out ++ [.answer e.master (.done [0, 0, 0, 0])],
            hp := { u.hp with list := u.hp.list.erase e },
            cells := u.cells.put c
              { owner := some e.master, gen := (u.cell c).gen + 1,
                lease := if winLease (u.window e.window) = 0 then none else some (winLease (u.window e.window)),
                lapsed := some o } })) →
    let note : NoticeKind → Notice := fun kind =>
      { kind := kind, master := o, window := u.coveringWindow c, subject := .cell c, reason := none,
        addr := (u.coveringWindow c).map fun w =>
          winBase (u.window w) + BitVec.ofNat 32 (4 * (c.val - winLow (u.window w))),
        detail := .generation (u.cell c).gen }
    (∀ s, s.quiet = u → (s.cell c).lease = some 0 → exec (.leaseExpiry c) s = .next (v.noticed (note .lease))) ∧
    (∀ s, s.linkReady → s.part = .running →
      u = { s.quiet with ml := { s.ml with frame := nextFrame s.ml.frame } } →
      exec (.freeCell (BitVec.ofNat 8 c.val)) s =
        .next { v.noticed (note .forcedFree) with ml := s.linkAfter 0x0B .ok [] }) ∧
    (∀ s, (o, c) ∈ s.hand.drops →
      u = { s.quiet with hand := { s.hand with drops := s.hand.drops.erase (o, c) } } →
      exec (.dropOwnerships o c) s = .next (v.noticed (note .forcedFree)))

/-! ### Follow-on work of the blocks -/

/-- The four cancellations of the hold pool: STOP_POOL answers every entry STOPPED without notices (R75), STOP_CELLS frees every cell with
generation 0 and answers the claim waiters STOPPED in the same step (R75, R102), and a ring's stop and freeze answer the entries of that ring, each
with its FAULT notice (R72, R73, R77). Stated for pools whose entries meet their law.
The answers of one cancellation are driven in the order of the pool list, which is the model's choice (log 40). -/
def Obligations.CancellationsAnswerTheirEntries : Prop :=
  ∀ s : State, s.waiterLaw →
    (s.hand.stopPool = true →
      exec .stopPool s =
        .next { s.cancelled .stopped (fun _ => true) with hand := { s.hand with stopPool := false } }) ∧
    (s.hand.stopCells = true →
      exec .stopCells s =
        .next
          { s.cancelled .stopped (fun e => match e.target with | .ring _ _ => false | .cell _ => true) with
            hand := { s.hand with stopCells := false },
            cells := Tbl.all 64 { owner := none, gen := 0, lease := none, lapsed := none } }) ∧
    ∀ (r : RingNo) (p : ParkEntry → Bool),
      (∀ e, p e = true ↔ ∃ side, e.target = .ring r side) →
      let notices : Reason → List Notice := fun reason => (s.hp.list.filter p).map fun e =>
        { kind := .fault, master := e.master, window := some e.window, subject := .ring r, reason := some reason,
          addr := some e.rq.addr, detail := .none }
      (s.hand.cancelStop.nth r = true →
        exec (.poolCancelRingStop r) s =
          .next
            { s.cancelled .ringOff p with
              hand :=
                { s.hand with
                  cancelStop := s.hand.cancelStop.put r false,
                  notices := s.hand.notices ++ notices .ringOff } }) ∧
      (s.hand.cancelFreeze.nth r = true →
        exec (.poolCancelFreeze r) s =
          .next
            { s.cancelled .ringFrozen p with
              hand :=
                { s.hand with
                  cancelFreeze := s.hand.cancelFreeze.put r false,
                  notices := s.hand.notices ++ notices .ringFrozen } })

/-- What the blocks do when they are told. RT's STOP leaves every ring OFF with its cursors, fill and counters, BUSY lanes detached (R48, R55, R184).
RT's entry into RUNNING starts each ring whose start-at-run flag is set, with cursors, fill and counters at 0 and BUSY lanes detached, and leaves the
others with their watch timer absent (R55, R114, R183); NW evaluates its conditions at the entry (R159, R183). The header copies overwrite the working mask and the priorities of masters
1 to 15 (R3). An ownership that the dropped master no longer holds is left (R96). Rings are taken in number order, a ring
that is RUNNING at the entry is left with its timer, and CM is told of the rings that STOP stops, by the model's reading (log 13, log 14, log 21); a
hand-off of a kind that waits already is taken once (log 41). -/
def Obligations.BlocksTakeStopAndEntry : Prop :=
  ∀ s : State,
    (s.hand.stopRings = true → ∃ t, exec .stopRings s = .next t ∧
      t = { s.quiet with
            rings := t.rings, hand := { s.hand with stopRings := false, cadStop := t.hand.cadStop } } ∧
      ∀ r, t.ring r =
          { s.ring r with
            state := .off, producer := (s.ring r).producer.detach, consumer := (s.ring r).consumer.detach } ∧
        t.hand.cadStop.nth r = (s.hand.cadStop.nth r || decide ((s.ring r).state = .running))) ∧
    (s.hand.runRings = true →
      exec .runEntryRings s =
        .next
          ((List.finRange 8).foldl State.runEntryRing { s.quiet with hand := { s.hand with runRings := false } })) ∧
    (∀ (u : State) (r : RingNo),
      ((u.ring r).cfg.startAtRun = true →
        u.runEntryRing r =
          { u with
            rings := u.rings.put r
              { u.ring r with
                state := .running, wi := 0, wo := 0, ri := 0, ro := 0, fill := 0, commits := 0, releases := 0,
                drops := 0, fills := 0, strays := 0, producer := (u.ring r).producer.detach,
                consumer := (u.ring r).consumer.detach },
            hand := { u.hand with cadStart := u.hand.cadStart.put r true } }.wakeRequests r) ∧
      ((u.ring r).cfg.startAtRun = false →
        ((u.ring r).state ≠ .running →
          u.runEntryRing r = { u with cadence := u.cadence.put r { u.cad r with watch := none } }) ∧
        ((u.ring r).state = .running → u.runEntryRing r = u))) ∧
    (s.hand.runNotices = true →
      exec .runEntryNotices s =
        .next { s.quiet with hand := { s.hand with runNotices := false } }.nwEvaluate) ∧
    (s.hand.headerCopy = true → ∃ t, exec .headerCopy s = .next t ∧
      t = { s.quiet with
            hand := { s.hand with headerCopy := false }, nw := { s.nw with mask := s.header.mask },
            masters := t.masters } ∧
      ∀ m, t.master m = if m = 0 then s.master m else { s.master m with prio := s.header.prios.nth m }) ∧
    ∀ (m : MasterNo) (c : CellNo), (m, c) ∈ s.hand.drops → (s.cell c).owner ≠ some m →
      exec (.dropOwnerships m c) s =
        .next { s.quiet with hand := { s.hand with drops := s.hand.drops.erase (m, c) } }

/-! ### The table loader -/

/-- The loader takes its reads one after another: a DONE before the last fills the staging copy and makes the next read (R175, R176); a FAULT or
TIMEOUT ends the load with READ_FAULT and the read's number, in HALTED, with the live table as it was and a pending LOAD completed with OK (R176, R180,
R193). The last DONE has the copy checked: a failure ends the load in the same way with its code and index (R177, R180); a copy that passes is
installed, the ring and cadence records take their values after a load, and the part is RUNNING after a load at reset, HALTED after a LOAD (R3, R55,
R114, R179, R180). A lane still BUSY at an install is detached, by the model's reading (log 13). -/
def Obligations.TableReadsFillCheckAndInstall : Prop :=
  ∀ (x : DownResult) (l : Load) (s : State),
    s.hand.results.find? DownResult.forLoader = some x → s.tl.load = some l →
    let s1 : State := { s with hand := { s.hand with results := s.hand.results.erase x } }
    (∀ data, x.ending = .done data → l.reads < 12 →
      exec .tableReadResult s =
        .next
          { s.quiet with
            tl := { s.tl with load := some { l with reads := l.reads + 1, staging := l.staging ++ data } },
            hand :=
              { s.hand with
                results := s.hand.results.erase x,
                joins := s.hand.joins ++
                  [({ source := .tableLoader, purpose := .table, dir := .read,
                      addr := l.addr + BitVec.ofNat 32 (64 * (l.reads + 1)), len := 64, data := [] } :
                      QueueEntry)] } }) ∧
    (∀ i : Fin 32, x.ending = .fault ∨ x.ending = .timeout → i.val = l.reads →
      exec .tableReadResult s = .next (s1.loadFailed .readFault (some i))) ∧
    (∀ data f, x.ending = .done data → l.reads = 12 → validate (wordsOf (l.staging ++ data)) = .error f →
      exec .tableReadResult s = .next (s1.loadFailed f.code f.index)) ∧
    (∀ data i, x.ending = .done data → l.reads = 12 → validate (wordsOf (l.staging ++ data)) = .ok i →
      ∃ t, exec .tableReadResult s = .next t ∧
        t = { s1 with
              part := (match l.origin with | .reset => .running | .command => .halted),
              header := i.header, windows := i.windows, rings := t.rings, masters := t.masters,
              cadence := Tbl.all 8
                { cls := .unknown, candidate := none, run := 0, elapsed := none, last := none, watch := none },
              nw := { s.nw with mask := i.header.mask },
              tl := { valid := true, code := .ok, index := none, load := none },
              ml := s.afterLoad,
              hand :=
                { s1.hand with
                  runRings := (match l.origin with | .reset => true | .command => s.hand.runRings),
                  runNotices := (match l.origin with | .reset => true | .command => s.hand.runNotices) },
              out := [] } ∧
        (∀ m, t.master m = if m = 0 then s.master m else { s.master m with prio := i.header.prios.nth m }) ∧
        ∀ r, t.ring r =
          { cfg := i.configs.nth r, state := .off, wi := 0, wo := 0, ri := 0, ro := 0, fill := 0,
            producer := (s.ring r).producer.detach, consumer := (s.ring r).consumer.detach,
            commits := 0, releases := 0, drops := 0, fills := 0, strays := 0 })

/-- The seven checks come in their order (R177, R178): the first that fails gives its code, BAD_FORMAT, BAD_BALANCE and BAD_HEADER without index,
BAD_WINDOW and OVERLAP with the lowest entry that fails, BAD_RING with the lowest ring record that is not well formed, then with the ring of the lowest
entry whose binding fails, then with the notice ring, and BAD_CELLS with the lowest entry that fails. A table that passes them all is taken as it
stands in the image, and meets every consistency condition of a live table, with ring configurations that are unconfigured or well formed (R4, R9, R10,
R25). -/
def Obligations.ValidatedTablesAreConsistent : Prop :=
  ∀ ws : List Word,
    (∀ i, validate ws = .ok i →
      imageWord ws 0 = 0x31200001 ∧ ws.sum = 0 ∧ i.header.inRange ∧
      (∀ w, winWellFormed (i.windows.nth w) = true) ∧
      (∀ v w, v ≠ w → winOverlap (i.windows.nth v) (i.windows.nth w) = false) ∧
      (∀ v w, v ≠ w → winCellsOverlap (i.windows.nth v) (i.windows.nth w) = false) ∧
      (∀ v w, v ≠ w → winSameRing (i.windows.nth v) (i.windows.nth w) = false) ∧
      (∀ w, winValid (i.windows.nth w) = true → winKind (i.windows.nth w) = .ring →
        winSize (i.windows.nth w) =
          (i.configs.nth (winRing (i.windows.nth w))).slotSize * (i.configs.nth (winRing (i.windows.nth w))).slotCount) ∧
      (∀ r, i.configs.nth r = RingConfig.unconfigured ∨ ringWellFormed (i.configs.nth r) = true) ∧
      noticeBound i.windows i.header.noticeRing = true ∧
      decodeHeader (imageWord ws 0) (imageWord ws 1) (Tbl.tabulate fun k => imageWord ws (2 + k.val)) = some i.header ∧
      (∀ w, i.windows.nth w = imageWindow ws w) ∧
      ∀ r, decodeImageRing (imageRing ws r) = some (i.configs.nth r)) ∧
    (imageWord ws 0 ≠ 0x31200001 → validate ws = .error { code := .badFormat, index := none }) ∧
    (imageWord ws 0 = 0x31200001 → ws.sum ≠ 0 → validate ws = .error { code := .badBalance, index := none }) ∧
    (∀ j, validate ws = .error { code := .badWindow, index := some j } →
      winWellFormed (imageWindow ws j) = false ∧ ∀ i, i < j → winWellFormed (imageWindow ws i) = true) ∧
    (∀ j, validate ws = .error { code := .overlap, index := some j } →
      (∃ i, i < j ∧ winOverlap (imageWindow ws i) (imageWindow ws j) = true) ∧
        ∀ k, k < j → ∀ i, i < k → winOverlap (imageWindow ws i) (imageWindow ws k) = false) ∧
    (imageWord ws 0 = 0x31200001 → ws.sum = 0 →
      let header := decodeHeader (imageWord ws 0) (imageWord ws 1) (Tbl.tabulate fun k => imageWord ws (2 + k.val))
      (header = none → validate ws = .error { code := .badHeader, index := none }) ∧
      ∀ h, header = some h →
        (∀ j, winWellFormed (imageWindow ws j) = false → (∀ i, i < j → winWellFormed (imageWindow ws i) = true) →
          validate ws = .error { code := .badWindow, index := some j }) ∧
        ((∀ j, winWellFormed (imageWindow ws j) = true) →
          (∀ i j, i < j → winOverlap (imageWindow ws i) (imageWindow ws j) = true →
            (∀ k, k < j → ∀ l, l < k → winOverlap (imageWindow ws l) (imageWindow ws k) = false) →
            validate ws = .error { code := .overlap, index := some j }) ∧
          ((∀ i j, i < j → winOverlap (imageWindow ws i) (imageWindow ws j) = false) →
            (∀ (r : RingNo) (n : Fin 32), n.val = r.val → decodeImageRing (imageRing ws r) = none →
              (∀ q, q < r → decodeImageRing (imageRing ws q) ≠ none) →
              validate ws = .error { code := .badRing, index := some n }) ∧
            ∀ cs : Tbl RingConfig 8, (∀ r, decodeImageRing (imageRing ws r) = some (cs.nth r)) →
              let misbound : WindowNo → Prop := fun j =>
                winValid (imageWindow ws j) = true ∧ winKind (imageWindow ws j) = .ring ∧
                  ((∃ i, i < j ∧ winSameRing (imageWindow ws i) (imageWindow ws j) = true) ∨
                    winSize (imageWindow ws j) ≠
                      (cs.nth (winRing (imageWindow ws j))).slotSize * (cs.nth (winRing (imageWindow ws j))).slotCount)
              (∀ (j : WindowNo) (n : Fin 32), n.val = (winRing (imageWindow ws j)).val → misbound j →
                (∀ i, i < j → ¬ misbound i) → validate ws = .error { code := .badRing, index := some n }) ∧
              ((∀ j, ¬ misbound j) →
                (∀ (r : RingNo) (n : Fin 32), n.val = r.val → h.noticeRing = some r →
                  (∀ j, winNamesRing (imageWindow ws j) r = true → winWriteSetEmpty (imageWindow ws j) = false) →
                  validate ws = .error { code := .badRing, index := some n }) ∧
                ((∀ r, h.noticeRing = some r →
                    ∃ j, winNamesRing (imageWindow ws j) r = true ∧ winWriteSetEmpty (imageWindow ws j) = true) →
                  (∀ i j, i < j → winCellsOverlap (imageWindow ws i) (imageWindow ws j) = true →
                    (∀ k, k < j → ∀ l, l < k → winCellsOverlap (imageWindow ws l) (imageWindow ws k) = false) →
                    validate ws = .error { code := .badCells, index := some j }) ∧
                  ((∀ i j, i < j → winCellsOverlap (imageWindow ws i) (imageWindow ws j) = false) →
                    validate ws = .ok { header := h, windows := Tbl.tabulate (imageWindow ws), configs := cs }))))))

/-- The layouts of the header and of a ring record are read back as they are written: every header in its ranges, every well-formed ring
configuration, and the unconfigured one from an image (R2, R24, R25, R206). -/
def Obligations.LayoutsReadBack : Prop :=
  (∀ h : Header, h.inRange → h.prios.nth 0 = 0 → ∃ w : Tbl Word 14,
    encodeHeader h = h.format :: h.balance :: w.toList ∧ decodeHeader h.format h.balance w = some h) ∧
  (∀ c : RingConfig, ringWellFormed c = true → ∃ w : RingWords,
    encodeRing c = w.toList ∧ decodeRingConfig w = some c ∧ decodeImageRing w = some c) ∧
  ∃ w : RingWords, encodeRing RingConfig.unconfigured = w.toList ∧
    decodeImageRing w = some RingConfig.unconfigured ∧ decodeRingConfig w = none

/-! ### Resets -/

/-- The release of RESET_N samples the straps, sets the cause LINE and takes the part to HALTED, or with LOAD_ON_RESET to LOADING with the first
read of the image at the page times 4096 (R171, R172, R175); while RESET_N is not asserted it changes nothing (the model's choice, log 3). RESET is
accepted and PENDING (R190, R201): it answers every outstanding request RESET and takes every block to its values after soft reset, with the downstream
link SETTLING when a request was in flight and the link's numbering kept (R130, R148, R173, R202). The soft reset ends in the same way as RESET_N's, with
cause COMMAND and the response OK (R173, R193). When it ends is the model's choice (log 8); so are the strap levels as operands (log 9), the order of
the answers (log 40), the hand-offs that a reset clears (log 24) and a due response timer counted as 1 (log 7). -/
def Obligations.ResetsSampleTheStrapsAndStartAgain : Prop :=
  ∀ (st : Straps) (s : State),
    let starts : State → State := fun u =>
      if st.loadOnReset then
        { u with
          part := .loading, straps := st, strapPins := st, resetAsserted := false,
          tl := { u.tl with
            load := some { origin := .reset, addr := BitVec.ofNat 32 (4096 * st.tablePage.toNat), reads := 0, staging := [] } },
          hand := { u.hand with
            joins := u.hand.joins ++
              [({ source := .tableLoader, purpose := .table, dir := .read,
                  addr := BitVec.ofNat 32 (4096 * st.tablePage.toNat), len := 64, data := [] } : QueueEntry)] } }
      else { u with part := .halted, straps := st, strapPins := st, resetAsserted := false }
    (s.resetAsserted = true →
      exec (.resetNRelease st) s = .next (starts { s.quiet with cause := .line })) ∧
    (s.resetAsserted = false → exec (.resetNRelease st) s = .next s.quiet) ∧
    (s.linkReady → ∃ u : State, exec (.reset st) s = .next u ∧
      u.part = .reset ∧ u.resetAsserted = false ∧ u.strapPins = st ∧ u.straps = s.straps ∧ u.cause = s.cause ∧
      u.blockResetValues ∧ u.hand = HandOffs.reset ∧ u.pending = s.pending ∧
      u.ml =
        { response := some { code := 0x18, frame := s.ml.frame, status := .pending, refusal := false, data := [] },
          long := some { command := .reset, frame := s.ml.frame }, frame := nextFrame s.ml.frame } ∧
      (s.dn.link = .idle → u.dn.link = .idle) ∧
      (∀ f, s.dn.link = .issued f → u.dn.link = .settling f.tag (if f.timer = 0 then 1 else f.timer)) ∧
      (∀ tag left, s.dn.link = .settling tag left → u.dn.link = .settling tag left) ∧
      u.out = ((List.finRange 16).filter fun m => (s.master m).outst.phase != .none).map fun m =>
        .answer m (.fault .reset)) ∧
    (∀ p, s.pending = [] → s.ml.long = some p → p.command = .reset → s.strapPins = st →
      step s =
        .next
          (starts
            { s.quiet with
              cause := .command,
              ml :=
                { s.ml with
                  response := some { code := 0x18, frame := p.frame, status := .ok, refusal := false, data := [] },
                  long := none } }))

/-! ### The management link -/

/-- While a long command is pending every command frame, malformed or not, is numbered and answered BUSY with the link-refusal mark, and nothing
else changes (R189, R191). While RESET_N is asserted no frame is taken (R202). Otherwise a malformed frame is numbered and answered BAD_ARG with the
code as received (R188). POLL shifts out the response record, the empty one as bytes 0, as far as the frame goes, with 0 after its last byte, and leaves it as it
was, but for a link refusal, which is turned back into the pending command's PENDING (R187, R192, R208). -/
def Obligations.FramesNumberedRefusedAndPolled : Prop :=
  (∀ (c : Instr) (code : Byte) (s : State),
    commandCode c = some code ∨ (∃ args, c = .commandFrameMalformed code args ∧ frameMalformed code args = true) →
    (s.resetAsserted = true → exec c s = .next s.quiet) ∧
    (∀ p, s.resetAsserted = false → s.ml.long = some p →
      exec c s =
        .next
          { s.quiet with
            ml :=
              { response := some { code := code, frame := s.ml.frame, status := .busy, refusal := true, data := [] },
                long := some p, frame := if s.ml.frame = 255 then 1 else s.ml.frame + 1 } })) ∧
  (∀ (code : Byte) (args : List Byte) (s : State), frameMalformed code args = true → s.linkReady →
    exec (.commandFrameMalformed code args) s = .next (s.responded code .badArg [])) ∧
  ∀ (n : Nat) (s : State),
    (s.resetAsserted = true → exec (.poll n) s = .next s.quiet) ∧
    (s.resetAsserted = false → s.ml.response = none →
      exec (.poll n) s = .next { s with out := [.mdo (List.replicate n 0)] }) ∧
    ∀ r, s.resetAsserted = false → s.ml.response = some r →
      let shown : List Byte :=
        ([r.code, r.frame, statusCode r.status, if r.refusal then 1 else 0, BitVec.ofNat 8 (r.data.length % 256),
          BitVec.ofNat 8 (r.data.length / 256)] ++ r.data ++ List.replicate n 0).take n
      (¬ (r.status = .busy ∧ r.refusal = true) ∨ s.ml.long = none →
        exec (.poll n) s = .next { s with out := [.mdo shown] }) ∧
      (∀ p, r.status = .busy → r.refusal = true → s.ml.long = some p →
        exec (.poll n) s =
          .next
            { s with
              out := [.mdo shown],
              ml :=
                { s.ml with
                  response := some
                    { code := (match p.command with | .load => 0x17 | .reset => 0x18), frame := p.frame,
                      status := .pending, refusal := false, data := [] } } })

/-- The ALERT line and its four causes (R167, R168), and the reading commands: each is answered OK with its whole view, in the layout of R205,
R206 and R208, and changes nothing outside ML but the model's count of free values; a number outside its range is answered BAD_ARG (R53, R78, R101, R132,
R197, R198, R199, R200). What an absent item holds where no rule states it is free (log 18), the items listed for a word stand from its lowest bits up
(log 19), a flag that fills a byte is 1 when set (log 42), and a due timer shows 1 (log 7). -/
def Obligations.ReadingCommandsReturnViews : Prop :=
  ∀ s : State,
    (alertNotices s = true ↔
      (∃ r, s.header.noticeRing = some r ∧ s.header.alertLevel.toNat ≤ (s.ring r).fill) ∨
        (s.header.noticeRing = none ∧ s.nw.queue ≠ [])) ∧
    (alertStall s = true ↔ s.nw.writer = .stalled) ∧
    (alertLost s = true ↔ s.nw.lost ≠ 0) ∧
    (alertLoadFail s = true ↔ s.tl.code ≠ .none ∧ s.tl.code ≠ .ok) ∧
    (alert s = true ↔ alertNotices s = true ∨ alertStall s = true ∨ alertLost s = true ∨ alertLoadFail s = true) ∧
    (s.linkReady →
      (∃ (data : List Byte) (alerts reads : Byte) (image : Word),
        exec .status s = .next { s.responded 0x01 .ok data with free := s.free + 1 } ∧
        data = bytesOf
          [wordOf (partCode s.part) (resetCauseCode s.cause) s.straps.tablePage (if s.straps.loadOnReset then 1 else 0),
            wordOf (if s.tl.valid then 1 else 0) (loadCodeByte s.tl.code)
              (match s.tl.index with | none => 255 | some i => BitVec.ofNat 8 i.val)
              (match s.nw.writer with | .idle => 0 | .writing _ => 1 | .stalled => 2),
            wordOf alerts (BitVec.ofNat 8 s.nw.queue.length) (s.nw.mask.zeroExtend 8) 0,
            s.nw.lost.zeroExtend 32,
            wordOf (match s.tl.load with | none => 0 | some l => originCode l.origin) reads 0 0,
            image, s.timestamp] ∧
        alerts.getLsbD 0 = alertNotices s ∧ alerts.getLsbD 1 = alertStall s ∧ alerts.getLsbD 2 = alertLost s ∧
        alerts.getLsbD 3 = alertLoadFail s ∧ alerts.getLsbD 4 = alert s ∧ alerts.extractLsb' 5 3 = 0 ∧
        ∀ l, s.tl.load = some l → reads = BitVec.ofNat 8 l.reads ∧ image = l.addr) ∧
      (∃ prios : Word,
        exec .readHeader s = .next (s.responded 0x02 .ok (bytesOf (encodeHeader s.header))) ∧
        encodeHeader s.header =
          [s.header.format, s.header.balance,
            wordOf (match s.header.policy with | .closed => 0 | .open => 1)
              (match s.header.noticeRing with | none => 255 | some r => BitVec.ofNat 8 r.val)
              (s.header.alertLevel.extractLsb' 0 8) (s.header.alertLevel.extractLsb' 8 8),
            wordOf (s.header.mask.zeroExtend 8) (s.header.internalPrio.zeroExtend 8)
              (s.header.retryBudget.zeroExtend 8) 0,
            s.header.respLimit.zeroExtend 32, prios, 0, 0, 0, 0, 0, 0, 0, 0, 0, 0] ∧
        ∀ m : MasterNo, m ≠ 0 → prios.extractLsb' (2 * m.val - 2) 2 = s.header.prios.nth m) ∧
      (∀ w : WindowNo, exec (.readWindow (BitVec.ofNat 8 w.val)) s =
        .next (s.responded 0x04 .ok
          (wordBytes ((s.window w).nth 0) ++ wordBytes ((s.window w).nth 1) ++ wordBytes ((s.window w).nth 2) ++
            wordBytes ((s.window w).nth 3)))) ∧
      (∀ r : RingNo, ∃ (data : List Byte) (elapsed last watch : Word),
        exec (.readRing (BitVec.ofNat 8 r.val)) s = .next { s.responded 0x06 .ok data with free := s.free + 1 } ∧
        data.length = 100 ∧
        data = bytesOf (encodeRing (s.ring r).cfg ++
          [wordOf (ringStateCode (s.ring r).state)
              (match s.boundWindow r with | none => 255 | some w => BitVec.ofNat 8 w.val) 0 0,
            BitVec.ofNat 16 (s.ring r).ri ++ BitVec.ofNat 16 (s.ring r).wi,
            BitVec.ofNat 16 (s.ring r).ro ++ BitVec.ofNat 16 (s.ring r).wo,
            BitVec.ofNat 32 (s.ring r).fill, laneShown (s.ring r).producer, laneShown (s.ring r).consumer,
            (match s.boundWindow r with
              | none => 0
              | some w => winBase (s.window w) +
                  BitVec.ofNat 32 ((s.ring r).wi * (s.ring r).cfg.slotSize) + BitVec.ofNat 32 (s.ring r).wo),
            (match s.boundWindow r with
              | none => 0
              | some w => winBase (s.window w) +
                  BitVec.ofNat 32 ((s.ring r).ri * (s.ring r).cfg.slotSize) + BitVec.ofNat 32 (s.ring r).ro),
            (s.ring r).commits, (s.ring r).releases, (s.ring r).drops, (s.ring r).fills, (s.ring r).strays,
            wordOf (classCode (s.cad r).cls)
              (match (s.cad r).candidate with | none => 255 | some x => classCode x)
              (BitVec.ofNat 8 (s.cad r).run) 0,
            elapsed, last, watch]) ∧
        timerShown (s.cad r).elapsed elapsed ∧ timerShown (s.cad r).last last ∧
        timerShown ((s.cad r).watch.map held) watch) ∧
      (∀ c : CellNo, ∃ (data : List Byte) (lease : Word) (mode : Byte),
        exec (.readCell (BitVec.ofNat 8 c.val)) s = .next { s.responded 0x0A .ok data with free := s.free + 1 } ∧
        data = bytesOf
          [wordOf (BitVec.ofNat 8 c.val) (match (s.cell c).owner with | none => 0 | some m => BitVec.ofNat 8 m.val)
              (s.cell c).gen (match (s.cell c).lapsed with | none => 0 | some m => BitVec.ofNat 8 m.val),
            lease,
            wordOf (match s.coveringWindow c with | none => 255 | some w => BitVec.ofNat 8 w.val) mode
              (BitVec.ofNat 8 (s.hp.list.countP fun e => e.target == .cell c)) 0,
            (match s.coveringWindow c with
              | none => 0
              | some w => winBase (s.window w) + BitVec.ofNat 32 (4 * (c.val - winLow (s.window w))))] ∧
        timerShown ((s.cell c).lease.map held) lease ∧ (mode = 0 ∨ mode = 1) ∧
        ∀ w, s.coveringWindow c = some w → (mode = 1 ↔ winWait (s.window w) = true)) ∧
      (∀ m : MasterNo, m ≠ 0 → ∃ (data : List Byte) (dir len park side : Byte) (addr : Word),
        exec (.readMaster (BitVec.ofNat 8 m.val)) s = .next { s.responded 0x0C .ok data with free := s.free + 1 } ∧
        data = bytesOf
          [wordOf (BitVec.ofNat 8 m.val) ((s.master m).prio.zeroExtend 8) (masterStateCode (s.master m).state)
              (phaseCode (s.master m).outst.phase),
            wordOf dir len park
              (match (s.master m).outst with | .laneHeld _ k => BitVec.ofNat 8 k.ring.val | _ => 255),
            addr,
            wordOf side (BitVec.ofNat 8 ((List.finRange 64).countP fun c => (s.cell c).owner == some m))
              (BitVec.ofNat 8 ((List.finRange 64).countP fun c => (s.cell c).lapsed == some m)) 0] ∧
        (dir = 0 ∨ dir = 1) ∧ (side = 0 ∨ side = 1) ∧
        (∀ rq, (s.master m).outst.request? = some rq →
          (dir = 1 ↔ rq.dir = .write) ∧ len = BitVec.ofNat 8 rq.len ∧ addr = rq.addr) ∧
        (∀ rq k, (s.master m).outst = .laneHeld rq k → (side = 1 ↔ k.side = .consumer)) ∧
        (∀ rq e, (s.master m).outst = .parked rq → s.hp.list.find? (fun x => x.master == m) = some e →
          park = BitVec.ofNat 8 e.slot.val) ∧
        ((∀ rq, (s.master m).outst ≠ .parked rq) → park = 255)) ∧
      (∃ (data : List Byte) (entries : List (List Word)),
        exec .readPool s = .next { s.responded 0x10 .ok data with free := s.free + 1 } ∧
        data = bytesOf (BitVec.ofNat 32 s.hp.list.length :: s.hp.arrival :: entries.flatten) ∧
        data.length = 8 + 20 * s.hp.list.length ∧ List.Forall₂ s.entryShown s.hp.list entries) ∧
      ∀ b : Byte,
        (32 ≤ b.toNat → exec (.readWindow b) s = .next (s.responded 0x04 .badArg [])) ∧
        (8 ≤ b.toNat → exec (.readRing b) s = .next (s.responded 0x06 .badArg [])) ∧
        (64 ≤ b.toNat → exec (.readCell b) s = .next (s.responded 0x0A .badArg [])) ∧
        (b = 0 ∨ 16 ≤ b.toNat → exec (.readMaster b) s = .next (s.responded 0x0C .badArg [])))

/-- The commands that edit the live table and the ring records, each with its checks in the order of its rule, a refused one changing nothing outside
ML: WRITE_HEADER (R22), WRITE_WINDOW (R18, R19, R20, R21) and WRITE_RING (R50),
which leaves the ring's watch timer absent (R114). That two WRITE_HEADERs can leave one header copy to take is the model's choice (log 41). -/
def Obligations.EditsCheckedInOrderThenMade : Prop :=
  ∀ s : State, s.linkReady →
    (∀ w : Tbl Word 14,
      (s.part ≠ .halted → exec (.writeHeader w) s = .next (s.responded 0x03 .badState [])) ∧
      (s.part = .halted → decodeHeader s.header.format s.header.balance w = none →
        exec (.writeHeader w) s = .next (s.responded 0x03 .badArg [])) ∧
      ∀ h, s.part = .halted → decodeHeader s.header.format s.header.balance w = some h →
        (noticeBound s.windows h.noticeRing = false →
          exec (.writeHeader w) s = .next (s.responded 0x03 .conflict [])) ∧
        (noticeBound s.windows h.noticeRing = true →
          h.format = s.header.format ∧ h.balance = s.header.balance ∧
          exec (.writeHeader w) s =
            .next { s.responded 0x03 .ok [] with header := h, hand := { s.hand with headerCopy := true } })) ∧
    (∀ (b : Byte) (e : WindowWords),
      (s.part = .loading ∨ s.part = .reset → exec (.writeWindow b e) s = .next (s.responded 0x05 .badState [])) ∧
      (s.part = .running ∨ s.part = .halted →
        (32 ≤ b.toNat ∨ winWellFormed e = false → exec (.writeWindow b e) s = .next (s.responded 0x05 .badArg [])) ∧
        ∀ w : WindowNo, b = BitVec.ofNat 8 w.val → winWellFormed e = true →
          (s.editConflicts w e = true → exec (.writeWindow b e) s = .next (s.responded 0x05 .conflict [])) ∧
          (s.editConflicts w e = false → s.part = .running → s.editBusy w e = true →
            exec (.writeWindow b e) s = .next (s.responded 0x05 .busy [])) ∧
          (s.editConflicts w e = false → s.part = .halted ∨ s.editBusy w e = false →
            exec (.writeWindow b e) s =
              .next { s.responded 0x05 .ok [] with windows := s.windows.put w e }))) ∧
    ∀ (b : Byte) (rec : RingWords),
      (s.part = .loading ∨ s.part = .reset → exec (.writeRing b rec) s = .next (s.responded 0x07 .badState [])) ∧
      (s.part = .running ∨ s.part = .halted →
        (8 ≤ b.toNat ∨ decodeRingConfig rec = none →
          exec (.writeRing b rec) s = .next (s.responded 0x07 .badArg [])) ∧
        ∀ (r : RingNo) (c : RingConfig), b = BitVec.ofNat 8 r.val → decodeRingConfig rec = some c →
          ((s.ring r).state ≠ .off → exec (.writeRing b rec) s = .next (s.responded 0x07 .badState [])) ∧
          ((s.ring r).state = .off →
            (∀ w, s.boundWindow r = some w → winSize (s.window w) ≠ c.slotSize * c.slotCount →
              exec (.writeRing b rec) s = .next (s.responded 0x07 .conflict [])) ∧
            ((∀ w, s.boundWindow r = some w → winSize (s.window w) = c.slotSize * c.slotCount) →
              ((s.ring r).producer ≠ .free ∨ (s.ring r).consumer ≠ .free →
                exec (.writeRing b rec) s = .next (s.responded 0x07 .busy [])) ∧
              ((s.ring r).producer = .free → (s.ring r).consumer = .free →
                exec (.writeRing b rec) s =
                  .next
                    { s.responded 0x07 .ok [] with
                      rings := s.rings.put r
                        { s.ring r with cfg := c, wi := 0, wo := 0, ri := 0, ro := 0, fill := 0 },
                      cadence := s.cadence.put r { s.cad r with watch := none } }))))

/-- RING_START checks its argument, then the state, then the lanes, and starts the ring at slot 0 with its counters at 0, tells CM and makes RT's wake
requests (R47). RING_STOP puts the ring in OFF with cursors, fill and counters kept and BUSY lanes detached, and tells HP and CM (R48). -/
def Obligations.RingStartAndStop : Prop :=
  ∀ s : State, s.linkReady →
    (∀ b : Byte, 8 ≤ b.toNat →
      exec (.ringStart b) s = .next (s.responded 0x08 .badArg []) ∧
        exec (.ringStop b) s = .next (s.responded 0x09 .badArg [])) ∧
    ∀ r : RingNo,
      (s.part ≠ .running ∨ (s.ring r).state = .running ∨ (s.ring r).cfg = RingConfig.unconfigured →
        exec (.ringStart (BitVec.ofNat 8 r.val)) s = .next (s.responded 0x08 .badState [])) ∧
      (s.part = .running → (s.ring r).state ≠ .running → (s.ring r).cfg ≠ RingConfig.unconfigured →
        ((s.ring r).producer ≠ .free ∨ (s.ring r).consumer ≠ .free →
          exec (.ringStart (BitVec.ofNat 8 r.val)) s = .next (s.responded 0x08 .busy [])) ∧
        ((s.ring r).producer = .free → (s.ring r).consumer = .free → ∃ u : State,
          u =
            { s.quiet with
              rings := s.rings.put r
                { s.ring r with
                  state := .running, wi := 0, wo := 0, ri := 0, ro := 0, fill := 0, commits := 0, releases := 0,
                  drops := 0, fills := 0, strays := 0 },
              hand := { s.hand with cadStart := s.hand.cadStart.put r true } }.wakeRequests r ∧
          exec (.ringStart (BitVec.ofNat 8 r.val)) s = .next { u with ml := s.linkAfter 0x08 .ok [] })) ∧
      (s.part ≠ .running ∨ (s.ring r).state = .off →
        exec (.ringStop (BitVec.ofNat 8 r.val)) s = .next (s.responded 0x09 .badState [])) ∧
      (s.part = .running → (s.ring r).state ≠ .off →
        exec (.ringStop (BitVec.ofNat 8 r.val)) s =
          .next
            { s.responded 0x09 .ok [] with
              rings := s.rings.put r
                { s.ring r with
                  state := .off, producer := (s.ring r).producer.detach, consumer := (s.ring r).consumer.detach },
              hand :=
                { s.hand with
                  cancelStop := s.hand.cancelStop.put r true, cadStop := s.hand.cadStop.put r true } })

/-- SET_PRIORITY (R122), DROP_MASTER with the treatment of the outstanding request by its phase and the FENCE notice (R125, R126, R127, R146), REOPEN_MASTER
(R128), STOP (R184), START (R183) and LOAD (R181, R190), each with its refusals in the order of its rule. A LOAD is PENDING until its load ends.
STOP tells CM of the rings that are RUNNING at once (log 21), the drop fixes the cells whose ownership ends (log 20), work that has not joined
is withdrawn where it waits (log 6), and a STOP or START that a block has not yet taken is not told twice (log 41), by the model's reading. -/
def Obligations.MasterAndPartCommands : Prop :=
  ∀ s : State, s.linkReady →
    (∀ b p : Byte, (b = 0 ∨ 16 ≤ b.toNat ∨ 4 ≤ p.toNat) →
      exec (.setPriority b p) s = .next (s.responded 0x0D .badArg [])) ∧
    (∀ b : Byte, (b = 0 ∨ 16 ≤ b.toNat) →
      exec (.dropMaster b) s = .next (s.responded 0x0E .badArg []) ∧
        exec (.reopenMaster b) s = .next (s.responded 0x0F .badArg [])) ∧
    (∀ m : MasterNo, m ≠ 0 →
      (∀ p : BitVec 2, exec (.setPriority (BitVec.ofNat 8 m.val) (p.zeroExtend 8)) s =
        .next { s.responded 0x0D .ok [] with masters := s.masters.put m { s.master m with prio := p } }) ∧
      (s.part = .loading ∨ s.part = .reset ∨ (s.master m).state = .fenced →
        exec (.dropMaster (BitVec.ofNat 8 m.val)) s = .next (s.responded 0x0E .badState [])) ∧
      (s.part = .loading ∨ s.part = .reset ∨ (s.master m).state = .opened →
        exec (.reopenMaster (BitVec.ofNat 8 m.val)) s = .next (s.responded 0x0F .badState [])) ∧
      (s.part = .running ∨ s.part = .halted → (s.master m).state = .fenced →
        exec (.reopenMaster (BitVec.ofNat 8 m.val)) s =
          .next { s.responded 0x0F .ok [] with masters := s.masters.put m { s.master m with state := .opened } }) ∧
      (s.part = .running ∨ s.part = .halted → (s.master m).state = .opened →
        (((s.master m).outst = .none ∨ (∃ rq, (s.master m).outst = .admitting rq) ∨
            (∃ rq, (s.master m).outst = .inFlight rq) ∨ (∃ rq k, (s.master m).outst = .laneHeld rq k)) →
          exec (.dropMaster (BitVec.ofNat 8 m.val)) s = .next { s.fencedOff m with ml := s.linkAfter 0x0E .ok [] }) ∧
        (∀ rq e pre post, (s.master m).outst = .parked rq → s.hp.list = pre ++ e :: post → e.master = m →
          (∀ x ∈ pre ++ post, x.master ≠ m) →
          exec (.dropMaster (BitVec.ofNat 8 m.val)) s =
            .next
              { s.fencedOff m with
                masters := s.masters.put m { s.master m with state := .fenced, outst := .none },
                hp := { s.hp with list := pre ++ post },
                out := [.answer m (.fault .dropped)], ml := s.linkAfter 0x0E .ok [] }) ∧
        (∀ rq e, (s.master m).outst = .queued rq →
          (s.dn.queue ++ s.hand.joins).filter (fun x => x.source == .master m) = [e] →
          ∃ u : State,
            u =
              { s.fencedOff m with
                masters := s.masters.put m { s.master m with state := .fenced, outst := .none },
                dn := { s.dn with queue := s.dn.queue.filter fun x => x.source != .master m },
                hand := { (s.fencedOff m).hand with joins := s.hand.joins.filter fun x => x.source != .master m },
                out := [.answer m (.fault .dropped)] } ∧
            ((∃ v, e.purpose = .pass v) →
              exec (.dropMaster (BitVec.ofNat 8 m.val)) s = .next { u with ml := s.linkAfter 0x0E .ok [] }) ∧
            (∀ r side v q d, e.purpose = .ring r side v → (s.ring r).lane side = .busy q d →
              ∃ t : State,
                t = { u with rings := s.rings.put r ((s.ring r).setLane side .free) }.wakeRequests r ∧
                exec (.dropMaster (BitVec.ofNat 8 m.val)) s = .next { t with ml := s.linkAfter 0x0E .ok [] })))) ∧
    (s.part ≠ .running → exec .stop s = .next (s.responded 0x15 .badState [])) ∧
    (s.part = .running → ∃ t, exec .stop s = .next t ∧
      t = { s.responded 0x15 .ok [] with
            part := .halted,
            hand :=
              { s.hand with stopRings := true, stopPool := true, stopCells := true, cadStop := t.hand.cadStop } } ∧
      ∀ r, t.hand.cadStop.nth r = (s.hand.cadStop.nth r || decide ((s.ring r).state = .running))) ∧
    (s.part ≠ .halted ∨ s.tl.valid = false → exec .start s = .next (s.responded 0x16 .badState [])) ∧
    (s.part = .halted → s.tl.valid = true →
      exec .start s =
        .next
          { s.responded 0x16 .ok [] with
            part := .running, hand := { s.hand with runRings := true, runNotices := true } }) ∧
    ∀ a : Word,
      (a.toNat % 64 ≠ 0 ∨ 2 ^ 32 < a.toNat + 832 → exec (.load a) s = .next (s.responded 0x17 .badArg [])) ∧
      (a.toNat % 64 = 0 → a.toNat + 832 ≤ 2 ^ 32 →
        (s.part ≠ .halted → exec (.load a) s = .next (s.responded 0x17 .badState [])) ∧
        (s.part = .halted →
          exec (.load a) s =
            .next
              { s.quiet with
                part := .loading,
                tl := { s.tl with load := some { origin := .command, addr := a, reads := 0, staging := [] } },
                hand :=
                  { s.hand with
                    joins := s.hand.joins ++
                      [({ source := .tableLoader, purpose := .table, dir := .read, addr := a, len := 64,
                          data := [] } : QueueEntry)] },
                ml :=
                  { response := some
                      { code := 0x17, frame := s.ml.frame, status := .pending, refusal := false, data := [] },
                    long := some { command := .load, frame := s.ml.frame }, frame := nextFrame s.ml.frame } }))
end

