-- ==== Sys2Proof/Laws/Table.lean ====
section
/-! SUPPORT. Reading the fixed-size tables back after an update. -/

namespace Sys2Proof.Tbl

variable {α β : Type} {n : Nat}

@[simp] theorem nth_put_self (t : Tbl α n) (i : Fin n) (x : α) : (t.put i x).nth i = x := by
  simp [nth, put]

theorem nth_put_ne (t : Tbl α n) {i j : Fin n} (x : α) (h : i ≠ j) : (t.put i x).nth j = t.nth j := by
  simp [nth, put, Vector.getElem_set_ne, Fin.val_ne_of_ne h]

theorem nth_put (t : Tbl α n) (i j : Fin n) (x : α) : (t.put i x).nth j = if i = j then x else t.nth j := by
  by_cases h : i = j
  · subst h; simp
  · simp [nth_put_ne t x h, h]

@[simp] theorem nth_all (x : α) (i : Fin n) : (Tbl.all n x).nth i = x := by simp [nth, all]

@[simp] theorem nth_mapAll (f : α → β) (t : Tbl α n) (i : Fin n) : (t.mapAll f).nth i = f (t.nth i) := by
  simp [nth, mapAll]

@[simp] theorem nth_tabulate (f : Fin n → α) (i : Fin n) : (Tbl.tabulate f).nth i = f i := by
  simp [nth, tabulate]

@[ext] theorem ext_nth {s t : Tbl α n} (h : ∀ i, s.nth i = t.nth i) : s = t := by
  apply Vector.ext
  intro i hi
  exact h ⟨i, hi⟩

@[simp] theorem put_nth (t : Tbl α n) (i : Fin n) : t.put i (t.nth i) = t := by
  apply ext_nth
  intro j
  rw [nth_put]
  split
  · next h => rw [h]
  · rfl

@[simp] theorem put_put (t : Tbl α n) (i : Fin n) (x y : α) : (t.put i x).put i y = t.put i y := by
  apply ext_nth
  intro j
  rw [nth_put, nth_put, nth_put]
  split <;> rfl

@[simp] theorem all_put_self (x : α) (i : Fin n) : (Tbl.all n x).put i x = Tbl.all n x := by
  have h := put_nth (Tbl.all n x) i
  rwa [nth_all] at h

end Sys2Proof.Tbl
end

