-- ==== Sys2Proof/Laws/State.lean ====
section
/-! SUPPORT. Each field of State after each update of Machine/Ops.lean. -/

namespace Sys2Proof.Machine

variable (s : State)

/-! ### `setRing` -/

@[simp] theorem State.setRing_part (r : RingNo) (k : Ring) : (s.setRing r k).part = s.part := rfl
@[simp] theorem State.setRing_resetAsserted (r : RingNo) (k : Ring) : (s.setRing r k).resetAsserted = s.resetAsserted := rfl
@[simp] theorem State.setRing_cause (r : RingNo) (k : Ring) : (s.setRing r k).cause = s.cause := rfl
@[simp] theorem State.setRing_strapPins (r : RingNo) (k : Ring) : (s.setRing r k).strapPins = s.strapPins := rfl
@[simp] theorem State.setRing_straps (r : RingNo) (k : Ring) : (s.setRing r k).straps = s.straps := rfl
@[simp] theorem State.setRing_timestamp (r : RingNo) (k : Ring) : (s.setRing r k).timestamp = s.timestamp := rfl
@[simp] theorem State.setRing_header (r : RingNo) (k : Ring) : (s.setRing r k).header = s.header := rfl
@[simp] theorem State.setRing_windows (r : RingNo) (k : Ring) : (s.setRing r k).windows = s.windows := rfl
@[simp] theorem State.setRing_rings (r : RingNo) (k : Ring) : (s.setRing r k).rings = s.rings.put r k := rfl
@[simp] theorem State.setRing_cadence (r : RingNo) (k : Ring) : (s.setRing r k).cadence = s.cadence := rfl
@[simp] theorem State.setRing_hp (r : RingNo) (k : Ring) : (s.setRing r k).hp = s.hp := rfl
@[simp] theorem State.setRing_cells (r : RingNo) (k : Ring) : (s.setRing r k).cells = s.cells := rfl
@[simp] theorem State.setRing_cu (r : RingNo) (k : Ring) : (s.setRing r k).cu = s.cu := rfl
@[simp] theorem State.setRing_masters (r : RingNo) (k : Ring) : (s.setRing r k).masters = s.masters := rfl
@[simp] theorem State.setRing_dn (r : RingNo) (k : Ring) : (s.setRing r k).dn = s.dn := rfl
@[simp] theorem State.setRing_nw (r : RingNo) (k : Ring) : (s.setRing r k).nw = s.nw := rfl
@[simp] theorem State.setRing_tl (r : RingNo) (k : Ring) : (s.setRing r k).tl = s.tl := rfl
@[simp] theorem State.setRing_ml (r : RingNo) (k : Ring) : (s.setRing r k).ml = s.ml := rfl
@[simp] theorem State.setRing_hand (r : RingNo) (k : Ring) : (s.setRing r k).hand = s.hand := rfl
@[simp] theorem State.setRing_out (r : RingNo) (k : Ring) : (s.setRing r k).out = s.out := rfl
@[simp] theorem State.setRing_free (r : RingNo) (k : Ring) : (s.setRing r k).free = s.free := rfl
@[simp] theorem State.setRing_pending (r : RingNo) (k : Ring) : (s.setRing r k).pending = s.pending := rfl
@[simp] theorem State.setRing_cad (r : RingNo) (k : Ring) (q : RingNo) : (s.setRing r k).cad q = s.cad q := rfl
@[simp] theorem State.setRing_cell (r : RingNo) (k : Ring) (d : CellNo) : (s.setRing r k).cell d = s.cell d := rfl
@[simp] theorem State.setRing_master (r : RingNo) (k : Ring) (q : MasterNo) : (s.setRing r k).master q = s.master q := rfl
@[simp] theorem State.setRing_window (r : RingNo) (k : Ring) (v : WindowNo) : (s.setRing r k).window v = s.window v := rfl

/-! ### `setCad` -/

@[simp] theorem State.setCad_part (r : RingNo) (k : Cadence) : (s.setCad r k).part = s.part := rfl
@[simp] theorem State.setCad_resetAsserted (r : RingNo) (k : Cadence) : (s.setCad r k).resetAsserted = s.resetAsserted := rfl
@[simp] theorem State.setCad_cause (r : RingNo) (k : Cadence) : (s.setCad r k).cause = s.cause := rfl
@[simp] theorem State.setCad_strapPins (r : RingNo) (k : Cadence) : (s.setCad r k).strapPins = s.strapPins := rfl
@[simp] theorem State.setCad_straps (r : RingNo) (k : Cadence) : (s.setCad r k).straps = s.straps := rfl
@[simp] theorem State.setCad_timestamp (r : RingNo) (k : Cadence) : (s.setCad r k).timestamp = s.timestamp := rfl
@[simp] theorem State.setCad_header (r : RingNo) (k : Cadence) : (s.setCad r k).header = s.header := rfl
@[simp] theorem State.setCad_windows (r : RingNo) (k : Cadence) : (s.setCad r k).windows = s.windows := rfl
@[simp] theorem State.setCad_rings (r : RingNo) (k : Cadence) : (s.setCad r k).rings = s.rings := rfl
@[simp] theorem State.setCad_cadence (r : RingNo) (k : Cadence) : (s.setCad r k).cadence = s.cadence.put r k := rfl
@[simp] theorem State.setCad_hp (r : RingNo) (k : Cadence) : (s.setCad r k).hp = s.hp := rfl
@[simp] theorem State.setCad_cells (r : RingNo) (k : Cadence) : (s.setCad r k).cells = s.cells := rfl
@[simp] theorem State.setCad_cu (r : RingNo) (k : Cadence) : (s.setCad r k).cu = s.cu := rfl
@[simp] theorem State.setCad_masters (r : RingNo) (k : Cadence) : (s.setCad r k).masters = s.masters := rfl
@[simp] theorem State.setCad_dn (r : RingNo) (k : Cadence) : (s.setCad r k).dn = s.dn := rfl
@[simp] theorem State.setCad_nw (r : RingNo) (k : Cadence) : (s.setCad r k).nw = s.nw := rfl
@[simp] theorem State.setCad_tl (r : RingNo) (k : Cadence) : (s.setCad r k).tl = s.tl := rfl
@[simp] theorem State.setCad_ml (r : RingNo) (k : Cadence) : (s.setCad r k).ml = s.ml := rfl
@[simp] theorem State.setCad_hand (r : RingNo) (k : Cadence) : (s.setCad r k).hand = s.hand := rfl
@[simp] theorem State.setCad_out (r : RingNo) (k : Cadence) : (s.setCad r k).out = s.out := rfl
@[simp] theorem State.setCad_free (r : RingNo) (k : Cadence) : (s.setCad r k).free = s.free := rfl
@[simp] theorem State.setCad_pending (r : RingNo) (k : Cadence) : (s.setCad r k).pending = s.pending := rfl
@[simp] theorem State.setCad_ring (r : RingNo) (k : Cadence) (q : RingNo) : (s.setCad r k).ring q = s.ring q := rfl
@[simp] theorem State.setCad_cell (r : RingNo) (k : Cadence) (d : CellNo) : (s.setCad r k).cell d = s.cell d := rfl
@[simp] theorem State.setCad_master (r : RingNo) (k : Cadence) (q : MasterNo) : (s.setCad r k).master q = s.master q := rfl
@[simp] theorem State.setCad_window (r : RingNo) (k : Cadence) (v : WindowNo) : (s.setCad r k).window v = s.window v := rfl

/-! ### `stopWatch` -/

@[simp] theorem State.stopWatch_part (r : RingNo) : (s.stopWatch r).part = s.part := rfl
@[simp] theorem State.stopWatch_resetAsserted (r : RingNo) : (s.stopWatch r).resetAsserted = s.resetAsserted := rfl
@[simp] theorem State.stopWatch_cause (r : RingNo) : (s.stopWatch r).cause = s.cause := rfl
@[simp] theorem State.stopWatch_strapPins (r : RingNo) : (s.stopWatch r).strapPins = s.strapPins := rfl
@[simp] theorem State.stopWatch_straps (r : RingNo) : (s.stopWatch r).straps = s.straps := rfl
@[simp] theorem State.stopWatch_timestamp (r : RingNo) : (s.stopWatch r).timestamp = s.timestamp := rfl
@[simp] theorem State.stopWatch_header (r : RingNo) : (s.stopWatch r).header = s.header := rfl
@[simp] theorem State.stopWatch_windows (r : RingNo) : (s.stopWatch r).windows = s.windows := rfl
@[simp] theorem State.stopWatch_rings (r : RingNo) : (s.stopWatch r).rings = s.rings := rfl
@[simp] theorem State.stopWatch_cadence (r : RingNo) : (s.stopWatch r).cadence = s.cadence.put r { s.cad r with watch := none } := rfl
@[simp] theorem State.stopWatch_hp (r : RingNo) : (s.stopWatch r).hp = s.hp := rfl
@[simp] theorem State.stopWatch_cells (r : RingNo) : (s.stopWatch r).cells = s.cells := rfl
@[simp] theorem State.stopWatch_cu (r : RingNo) : (s.stopWatch r).cu = s.cu := rfl
@[simp] theorem State.stopWatch_masters (r : RingNo) : (s.stopWatch r).masters = s.masters := rfl
@[simp] theorem State.stopWatch_dn (r : RingNo) : (s.stopWatch r).dn = s.dn := rfl
@[simp] theorem State.stopWatch_nw (r : RingNo) : (s.stopWatch r).nw = s.nw := rfl
@[simp] theorem State.stopWatch_tl (r : RingNo) : (s.stopWatch r).tl = s.tl := rfl
@[simp] theorem State.stopWatch_ml (r : RingNo) : (s.stopWatch r).ml = s.ml := rfl
@[simp] theorem State.stopWatch_hand (r : RingNo) : (s.stopWatch r).hand = s.hand := rfl
@[simp] theorem State.stopWatch_out (r : RingNo) : (s.stopWatch r).out = s.out := rfl
@[simp] theorem State.stopWatch_free (r : RingNo) : (s.stopWatch r).free = s.free := rfl
@[simp] theorem State.stopWatch_pending (r : RingNo) : (s.stopWatch r).pending = s.pending := rfl
@[simp] theorem State.stopWatch_ring (r : RingNo) (q : RingNo) : (s.stopWatch r).ring q = s.ring q := rfl
@[simp] theorem State.stopWatch_cell (r : RingNo) (d : CellNo) : (s.stopWatch r).cell d = s.cell d := rfl
@[simp] theorem State.stopWatch_master (r : RingNo) (q : MasterNo) : (s.stopWatch r).master q = s.master q := rfl
@[simp] theorem State.stopWatch_window (r : RingNo) (v : WindowNo) : (s.stopWatch r).window v = s.window v := rfl

/-! ### `setCell` -/

@[simp] theorem State.setCell_part (c : CellNo) (k : Cell) : (s.setCell c k).part = s.part := rfl
@[simp] theorem State.setCell_resetAsserted (c : CellNo) (k : Cell) : (s.setCell c k).resetAsserted = s.resetAsserted := rfl
@[simp] theorem State.setCell_cause (c : CellNo) (k : Cell) : (s.setCell c k).cause = s.cause := rfl
@[simp] theorem State.setCell_strapPins (c : CellNo) (k : Cell) : (s.setCell c k).strapPins = s.strapPins := rfl
@[simp] theorem State.setCell_straps (c : CellNo) (k : Cell) : (s.setCell c k).straps = s.straps := rfl
@[simp] theorem State.setCell_timestamp (c : CellNo) (k : Cell) : (s.setCell c k).timestamp = s.timestamp := rfl
@[simp] theorem State.setCell_header (c : CellNo) (k : Cell) : (s.setCell c k).header = s.header := rfl
@[simp] theorem State.setCell_windows (c : CellNo) (k : Cell) : (s.setCell c k).windows = s.windows := rfl
@[simp] theorem State.setCell_rings (c : CellNo) (k : Cell) : (s.setCell c k).rings = s.rings := rfl
@[simp] theorem State.setCell_cadence (c : CellNo) (k : Cell) : (s.setCell c k).cadence = s.cadence := rfl
@[simp] theorem State.setCell_hp (c : CellNo) (k : Cell) : (s.setCell c k).hp = s.hp := rfl
@[simp] theorem State.setCell_cells (c : CellNo) (k : Cell) : (s.setCell c k).cells = s.cells.put c k := rfl
@[simp] theorem State.setCell_cu (c : CellNo) (k : Cell) : (s.setCell c k).cu = s.cu := rfl
@[simp] theorem State.setCell_masters (c : CellNo) (k : Cell) : (s.setCell c k).masters = s.masters := rfl
@[simp] theorem State.setCell_dn (c : CellNo) (k : Cell) : (s.setCell c k).dn = s.dn := rfl
@[simp] theorem State.setCell_nw (c : CellNo) (k : Cell) : (s.setCell c k).nw = s.nw := rfl
@[simp] theorem State.setCell_tl (c : CellNo) (k : Cell) : (s.setCell c k).tl = s.tl := rfl
@[simp] theorem State.setCell_ml (c : CellNo) (k : Cell) : (s.setCell c k).ml = s.ml := rfl
@[simp] theorem State.setCell_hand (c : CellNo) (k : Cell) : (s.setCell c k).hand = s.hand := rfl
@[simp] theorem State.setCell_out (c : CellNo) (k : Cell) : (s.setCell c k).out = s.out := rfl
@[simp] theorem State.setCell_free (c : CellNo) (k : Cell) : (s.setCell c k).free = s.free := rfl
@[simp] theorem State.setCell_pending (c : CellNo) (k : Cell) : (s.setCell c k).pending = s.pending := rfl
@[simp] theorem State.setCell_ring (c : CellNo) (k : Cell) (q : RingNo) : (s.setCell c k).ring q = s.ring q := rfl
@[simp] theorem State.setCell_cad (c : CellNo) (k : Cell) (q : RingNo) : (s.setCell c k).cad q = s.cad q := rfl
@[simp] theorem State.setCell_master (c : CellNo) (k : Cell) (q : MasterNo) : (s.setCell c k).master q = s.master q := rfl
@[simp] theorem State.setCell_window (c : CellNo) (k : Cell) (v : WindowNo) : (s.setCell c k).window v = s.window v := rfl

/-! ### `setMaster` -/

@[simp] theorem State.setMaster_part (m : MasterNo) (k : Master) : (s.setMaster m k).part = s.part := rfl
@[simp] theorem State.setMaster_resetAsserted (m : MasterNo) (k : Master) : (s.setMaster m k).resetAsserted = s.resetAsserted := rfl
@[simp] theorem State.setMaster_cause (m : MasterNo) (k : Master) : (s.setMaster m k).cause = s.cause := rfl
@[simp] theorem State.setMaster_strapPins (m : MasterNo) (k : Master) : (s.setMaster m k).strapPins = s.strapPins := rfl
@[simp] theorem State.setMaster_straps (m : MasterNo) (k : Master) : (s.setMaster m k).straps = s.straps := rfl
@[simp] theorem State.setMaster_timestamp (m : MasterNo) (k : Master) : (s.setMaster m k).timestamp = s.timestamp := rfl
@[simp] theorem State.setMaster_header (m : MasterNo) (k : Master) : (s.setMaster m k).header = s.header := rfl
@[simp] theorem State.setMaster_windows (m : MasterNo) (k : Master) : (s.setMaster m k).windows = s.windows := rfl
@[simp] theorem State.setMaster_rings (m : MasterNo) (k : Master) : (s.setMaster m k).rings = s.rings := rfl
@[simp] theorem State.setMaster_cadence (m : MasterNo) (k : Master) : (s.setMaster m k).cadence = s.cadence := rfl
@[simp] theorem State.setMaster_hp (m : MasterNo) (k : Master) : (s.setMaster m k).hp = s.hp := rfl
@[simp] theorem State.setMaster_cells (m : MasterNo) (k : Master) : (s.setMaster m k).cells = s.cells := rfl
@[simp] theorem State.setMaster_cu (m : MasterNo) (k : Master) : (s.setMaster m k).cu = s.cu := rfl
@[simp] theorem State.setMaster_masters (m : MasterNo) (k : Master) : (s.setMaster m k).masters = s.masters.put m k := rfl
@[simp] theorem State.setMaster_dn (m : MasterNo) (k : Master) : (s.setMaster m k).dn = s.dn := rfl
@[simp] theorem State.setMaster_nw (m : MasterNo) (k : Master) : (s.setMaster m k).nw = s.nw := rfl
@[simp] theorem State.setMaster_tl (m : MasterNo) (k : Master) : (s.setMaster m k).tl = s.tl := rfl
@[simp] theorem State.setMaster_ml (m : MasterNo) (k : Master) : (s.setMaster m k).ml = s.ml := rfl
@[simp] theorem State.setMaster_hand (m : MasterNo) (k : Master) : (s.setMaster m k).hand = s.hand := rfl
@[simp] theorem State.setMaster_out (m : MasterNo) (k : Master) : (s.setMaster m k).out = s.out := rfl
@[simp] theorem State.setMaster_free (m : MasterNo) (k : Master) : (s.setMaster m k).free = s.free := rfl
@[simp] theorem State.setMaster_pending (m : MasterNo) (k : Master) : (s.setMaster m k).pending = s.pending := rfl
@[simp] theorem State.setMaster_ring (m : MasterNo) (k : Master) (q : RingNo) : (s.setMaster m k).ring q = s.ring q := rfl
@[simp] theorem State.setMaster_cad (m : MasterNo) (k : Master) (q : RingNo) : (s.setMaster m k).cad q = s.cad q := rfl
@[simp] theorem State.setMaster_cell (m : MasterNo) (k : Master) (d : CellNo) : (s.setMaster m k).cell d = s.cell d := rfl
@[simp] theorem State.setMaster_window (m : MasterNo) (k : Master) (v : WindowNo) : (s.setMaster m k).window v = s.window v := rfl

/-! ### `setWindow` -/

@[simp] theorem State.setWindow_part (w : WindowNo) (k : WindowWords) : (s.setWindow w k).part = s.part := rfl
@[simp] theorem State.setWindow_resetAsserted (w : WindowNo) (k : WindowWords) : (s.setWindow w k).resetAsserted = s.resetAsserted := rfl
@[simp] theorem State.setWindow_cause (w : WindowNo) (k : WindowWords) : (s.setWindow w k).cause = s.cause := rfl
@[simp] theorem State.setWindow_strapPins (w : WindowNo) (k : WindowWords) : (s.setWindow w k).strapPins = s.strapPins := rfl
@[simp] theorem State.setWindow_straps (w : WindowNo) (k : WindowWords) : (s.setWindow w k).straps = s.straps := rfl
@[simp] theorem State.setWindow_timestamp (w : WindowNo) (k : WindowWords) : (s.setWindow w k).timestamp = s.timestamp := rfl
@[simp] theorem State.setWindow_header (w : WindowNo) (k : WindowWords) : (s.setWindow w k).header = s.header := rfl
@[simp] theorem State.setWindow_windows (w : WindowNo) (k : WindowWords) : (s.setWindow w k).windows = s.windows.put w k := rfl
@[simp] theorem State.setWindow_rings (w : WindowNo) (k : WindowWords) : (s.setWindow w k).rings = s.rings := rfl
@[simp] theorem State.setWindow_cadence (w : WindowNo) (k : WindowWords) : (s.setWindow w k).cadence = s.cadence := rfl
@[simp] theorem State.setWindow_hp (w : WindowNo) (k : WindowWords) : (s.setWindow w k).hp = s.hp := rfl
@[simp] theorem State.setWindow_cells (w : WindowNo) (k : WindowWords) : (s.setWindow w k).cells = s.cells := rfl
@[simp] theorem State.setWindow_cu (w : WindowNo) (k : WindowWords) : (s.setWindow w k).cu = s.cu := rfl
@[simp] theorem State.setWindow_masters (w : WindowNo) (k : WindowWords) : (s.setWindow w k).masters = s.masters := rfl
@[simp] theorem State.setWindow_dn (w : WindowNo) (k : WindowWords) : (s.setWindow w k).dn = s.dn := rfl
@[simp] theorem State.setWindow_nw (w : WindowNo) (k : WindowWords) : (s.setWindow w k).nw = s.nw := rfl
@[simp] theorem State.setWindow_tl (w : WindowNo) (k : WindowWords) : (s.setWindow w k).tl = s.tl := rfl
@[simp] theorem State.setWindow_ml (w : WindowNo) (k : WindowWords) : (s.setWindow w k).ml = s.ml := rfl
@[simp] theorem State.setWindow_hand (w : WindowNo) (k : WindowWords) : (s.setWindow w k).hand = s.hand := rfl
@[simp] theorem State.setWindow_out (w : WindowNo) (k : WindowWords) : (s.setWindow w k).out = s.out := rfl
@[simp] theorem State.setWindow_free (w : WindowNo) (k : WindowWords) : (s.setWindow w k).free = s.free := rfl
@[simp] theorem State.setWindow_pending (w : WindowNo) (k : WindowWords) : (s.setWindow w k).pending = s.pending := rfl
@[simp] theorem State.setWindow_ring (w : WindowNo) (k : WindowWords) (q : RingNo) : (s.setWindow w k).ring q = s.ring q := rfl
@[simp] theorem State.setWindow_cad (w : WindowNo) (k : WindowWords) (q : RingNo) : (s.setWindow w k).cad q = s.cad q := rfl
@[simp] theorem State.setWindow_cell (w : WindowNo) (k : WindowWords) (d : CellNo) : (s.setWindow w k).cell d = s.cell d := rfl
@[simp] theorem State.setWindow_master (w : WindowNo) (k : WindowWords) (q : MasterNo) : (s.setWindow w k).master q = s.master q := rfl

/-! ### `setHp` -/

@[simp] theorem State.setHp_part (h : HoldPool) : (s.setHp h).part = s.part := rfl
@[simp] theorem State.setHp_resetAsserted (h : HoldPool) : (s.setHp h).resetAsserted = s.resetAsserted := rfl
@[simp] theorem State.setHp_cause (h : HoldPool) : (s.setHp h).cause = s.cause := rfl
@[simp] theorem State.setHp_strapPins (h : HoldPool) : (s.setHp h).strapPins = s.strapPins := rfl
@[simp] theorem State.setHp_straps (h : HoldPool) : (s.setHp h).straps = s.straps := rfl
@[simp] theorem State.setHp_timestamp (h : HoldPool) : (s.setHp h).timestamp = s.timestamp := rfl
@[simp] theorem State.setHp_header (h : HoldPool) : (s.setHp h).header = s.header := rfl
@[simp] theorem State.setHp_windows (h : HoldPool) : (s.setHp h).windows = s.windows := rfl
@[simp] theorem State.setHp_rings (h : HoldPool) : (s.setHp h).rings = s.rings := rfl
@[simp] theorem State.setHp_cadence (h : HoldPool) : (s.setHp h).cadence = s.cadence := rfl
@[simp] theorem State.setHp_hp (h : HoldPool) : (s.setHp h).hp = h := rfl
@[simp] theorem State.setHp_cells (h : HoldPool) : (s.setHp h).cells = s.cells := rfl
@[simp] theorem State.setHp_cu (h : HoldPool) : (s.setHp h).cu = s.cu := rfl
@[simp] theorem State.setHp_masters (h : HoldPool) : (s.setHp h).masters = s.masters := rfl
@[simp] theorem State.setHp_dn (h : HoldPool) : (s.setHp h).dn = s.dn := rfl
@[simp] theorem State.setHp_nw (h : HoldPool) : (s.setHp h).nw = s.nw := rfl
@[simp] theorem State.setHp_tl (h : HoldPool) : (s.setHp h).tl = s.tl := rfl
@[simp] theorem State.setHp_ml (h : HoldPool) : (s.setHp h).ml = s.ml := rfl
@[simp] theorem State.setHp_hand (h : HoldPool) : (s.setHp h).hand = s.hand := rfl
@[simp] theorem State.setHp_out (h : HoldPool) : (s.setHp h).out = s.out := rfl
@[simp] theorem State.setHp_free (h : HoldPool) : (s.setHp h).free = s.free := rfl
@[simp] theorem State.setHp_pending (h : HoldPool) : (s.setHp h).pending = s.pending := rfl
@[simp] theorem State.setHp_ring (h : HoldPool) (q : RingNo) : (s.setHp h).ring q = s.ring q := rfl
@[simp] theorem State.setHp_cad (h : HoldPool) (q : RingNo) : (s.setHp h).cad q = s.cad q := rfl
@[simp] theorem State.setHp_cell (h : HoldPool) (d : CellNo) : (s.setHp h).cell d = s.cell d := rfl
@[simp] theorem State.setHp_master (h : HoldPool) (q : MasterNo) : (s.setHp h).master q = s.master q := rfl
@[simp] theorem State.setHp_window (h : HoldPool) (v : WindowNo) : (s.setHp h).window v = s.window v := rfl

/-! ### `setDn` -/

@[simp] theorem State.setDn_part (p : Downstream) : (s.setDn p).part = s.part := rfl
@[simp] theorem State.setDn_resetAsserted (p : Downstream) : (s.setDn p).resetAsserted = s.resetAsserted := rfl
@[simp] theorem State.setDn_cause (p : Downstream) : (s.setDn p).cause = s.cause := rfl
@[simp] theorem State.setDn_strapPins (p : Downstream) : (s.setDn p).strapPins = s.strapPins := rfl
@[simp] theorem State.setDn_straps (p : Downstream) : (s.setDn p).straps = s.straps := rfl
@[simp] theorem State.setDn_timestamp (p : Downstream) : (s.setDn p).timestamp = s.timestamp := rfl
@[simp] theorem State.setDn_header (p : Downstream) : (s.setDn p).header = s.header := rfl
@[simp] theorem State.setDn_windows (p : Downstream) : (s.setDn p).windows = s.windows := rfl
@[simp] theorem State.setDn_rings (p : Downstream) : (s.setDn p).rings = s.rings := rfl
@[simp] theorem State.setDn_cadence (p : Downstream) : (s.setDn p).cadence = s.cadence := rfl
@[simp] theorem State.setDn_hp (p : Downstream) : (s.setDn p).hp = s.hp := rfl
@[simp] theorem State.setDn_cells (p : Downstream) : (s.setDn p).cells = s.cells := rfl
@[simp] theorem State.setDn_cu (p : Downstream) : (s.setDn p).cu = s.cu := rfl
@[simp] theorem State.setDn_masters (p : Downstream) : (s.setDn p).masters = s.masters := rfl
@[simp] theorem State.setDn_dn (p : Downstream) : (s.setDn p).dn = p := rfl
@[simp] theorem State.setDn_nw (p : Downstream) : (s.setDn p).nw = s.nw := rfl
@[simp] theorem State.setDn_tl (p : Downstream) : (s.setDn p).tl = s.tl := rfl
@[simp] theorem State.setDn_ml (p : Downstream) : (s.setDn p).ml = s.ml := rfl
@[simp] theorem State.setDn_hand (p : Downstream) : (s.setDn p).hand = s.hand := rfl
@[simp] theorem State.setDn_out (p : Downstream) : (s.setDn p).out = s.out := rfl
@[simp] theorem State.setDn_free (p : Downstream) : (s.setDn p).free = s.free := rfl
@[simp] theorem State.setDn_pending (p : Downstream) : (s.setDn p).pending = s.pending := rfl
@[simp] theorem State.setDn_ring (p : Downstream) (q : RingNo) : (s.setDn p).ring q = s.ring q := rfl
@[simp] theorem State.setDn_cad (p : Downstream) (q : RingNo) : (s.setDn p).cad q = s.cad q := rfl
@[simp] theorem State.setDn_cell (p : Downstream) (d : CellNo) : (s.setDn p).cell d = s.cell d := rfl
@[simp] theorem State.setDn_master (p : Downstream) (q : MasterNo) : (s.setDn p).master q = s.master q := rfl
@[simp] theorem State.setDn_window (p : Downstream) (v : WindowNo) : (s.setDn p).window v = s.window v := rfl

/-! ### `setNw` -/

@[simp] theorem State.setNw_part (n : NoticeWriter) : (s.setNw n).part = s.part := rfl
@[simp] theorem State.setNw_resetAsserted (n : NoticeWriter) : (s.setNw n).resetAsserted = s.resetAsserted := rfl
@[simp] theorem State.setNw_cause (n : NoticeWriter) : (s.setNw n).cause = s.cause := rfl
@[simp] theorem State.setNw_strapPins (n : NoticeWriter) : (s.setNw n).strapPins = s.strapPins := rfl
@[simp] theorem State.setNw_straps (n : NoticeWriter) : (s.setNw n).straps = s.straps := rfl
@[simp] theorem State.setNw_timestamp (n : NoticeWriter) : (s.setNw n).timestamp = s.timestamp := rfl
@[simp] theorem State.setNw_header (n : NoticeWriter) : (s.setNw n).header = s.header := rfl
@[simp] theorem State.setNw_windows (n : NoticeWriter) : (s.setNw n).windows = s.windows := rfl
@[simp] theorem State.setNw_rings (n : NoticeWriter) : (s.setNw n).rings = s.rings := rfl
@[simp] theorem State.setNw_cadence (n : NoticeWriter) : (s.setNw n).cadence = s.cadence := rfl
@[simp] theorem State.setNw_hp (n : NoticeWriter) : (s.setNw n).hp = s.hp := rfl
@[simp] theorem State.setNw_cells (n : NoticeWriter) : (s.setNw n).cells = s.cells := rfl
@[simp] theorem State.setNw_cu (n : NoticeWriter) : (s.setNw n).cu = s.cu := rfl
@[simp] theorem State.setNw_masters (n : NoticeWriter) : (s.setNw n).masters = s.masters := rfl
@[simp] theorem State.setNw_dn (n : NoticeWriter) : (s.setNw n).dn = s.dn := rfl
@[simp] theorem State.setNw_nw (n : NoticeWriter) : (s.setNw n).nw = n := rfl
@[simp] theorem State.setNw_tl (n : NoticeWriter) : (s.setNw n).tl = s.tl := rfl
@[simp] theorem State.setNw_ml (n : NoticeWriter) : (s.setNw n).ml = s.ml := rfl
@[simp] theorem State.setNw_hand (n : NoticeWriter) : (s.setNw n).hand = s.hand := rfl
@[simp] theorem State.setNw_out (n : NoticeWriter) : (s.setNw n).out = s.out := rfl
@[simp] theorem State.setNw_free (n : NoticeWriter) : (s.setNw n).free = s.free := rfl
@[simp] theorem State.setNw_pending (n : NoticeWriter) : (s.setNw n).pending = s.pending := rfl
@[simp] theorem State.setNw_ring (n : NoticeWriter) (q : RingNo) : (s.setNw n).ring q = s.ring q := rfl
@[simp] theorem State.setNw_cad (n : NoticeWriter) (q : RingNo) : (s.setNw n).cad q = s.cad q := rfl
@[simp] theorem State.setNw_cell (n : NoticeWriter) (d : CellNo) : (s.setNw n).cell d = s.cell d := rfl
@[simp] theorem State.setNw_master (n : NoticeWriter) (q : MasterNo) : (s.setNw n).master q = s.master q := rfl
@[simp] theorem State.setNw_window (n : NoticeWriter) (v : WindowNo) : (s.setNw n).window v = s.window v := rfl

/-! ### `setMl` -/

@[simp] theorem State.setMl_part (k : MgmtLink) : (s.setMl k).part = s.part := rfl
@[simp] theorem State.setMl_resetAsserted (k : MgmtLink) : (s.setMl k).resetAsserted = s.resetAsserted := rfl
@[simp] theorem State.setMl_cause (k : MgmtLink) : (s.setMl k).cause = s.cause := rfl
@[simp] theorem State.setMl_strapPins (k : MgmtLink) : (s.setMl k).strapPins = s.strapPins := rfl
@[simp] theorem State.setMl_straps (k : MgmtLink) : (s.setMl k).straps = s.straps := rfl
@[simp] theorem State.setMl_timestamp (k : MgmtLink) : (s.setMl k).timestamp = s.timestamp := rfl
@[simp] theorem State.setMl_header (k : MgmtLink) : (s.setMl k).header = s.header := rfl
@[simp] theorem State.setMl_windows (k : MgmtLink) : (s.setMl k).windows = s.windows := rfl
@[simp] theorem State.setMl_rings (k : MgmtLink) : (s.setMl k).rings = s.rings := rfl
@[simp] theorem State.setMl_cadence (k : MgmtLink) : (s.setMl k).cadence = s.cadence := rfl
@[simp] theorem State.setMl_hp (k : MgmtLink) : (s.setMl k).hp = s.hp := rfl
@[simp] theorem State.setMl_cells (k : MgmtLink) : (s.setMl k).cells = s.cells := rfl
@[simp] theorem State.setMl_cu (k : MgmtLink) : (s.setMl k).cu = s.cu := rfl
@[simp] theorem State.setMl_masters (k : MgmtLink) : (s.setMl k).masters = s.masters := rfl
@[simp] theorem State.setMl_dn (k : MgmtLink) : (s.setMl k).dn = s.dn := rfl
@[simp] theorem State.setMl_nw (k : MgmtLink) : (s.setMl k).nw = s.nw := rfl
@[simp] theorem State.setMl_tl (k : MgmtLink) : (s.setMl k).tl = s.tl := rfl
@[simp] theorem State.setMl_ml (k : MgmtLink) : (s.setMl k).ml = k := rfl
@[simp] theorem State.setMl_hand (k : MgmtLink) : (s.setMl k).hand = s.hand := rfl
@[simp] theorem State.setMl_out (k : MgmtLink) : (s.setMl k).out = s.out := rfl
@[simp] theorem State.setMl_free (k : MgmtLink) : (s.setMl k).free = s.free := rfl
@[simp] theorem State.setMl_pending (k : MgmtLink) : (s.setMl k).pending = s.pending := rfl
@[simp] theorem State.setMl_ring (k : MgmtLink) (q : RingNo) : (s.setMl k).ring q = s.ring q := rfl
@[simp] theorem State.setMl_cad (k : MgmtLink) (q : RingNo) : (s.setMl k).cad q = s.cad q := rfl
@[simp] theorem State.setMl_cell (k : MgmtLink) (d : CellNo) : (s.setMl k).cell d = s.cell d := rfl
@[simp] theorem State.setMl_master (k : MgmtLink) (q : MasterNo) : (s.setMl k).master q = s.master q := rfl
@[simp] theorem State.setMl_window (k : MgmtLink) (v : WindowNo) : (s.setMl k).window v = s.window v := rfl

/-! ### `setTl` -/

@[simp] theorem State.setTl_part (t : Loader) : (s.setTl t).part = s.part := rfl
@[simp] theorem State.setTl_resetAsserted (t : Loader) : (s.setTl t).resetAsserted = s.resetAsserted := rfl
@[simp] theorem State.setTl_cause (t : Loader) : (s.setTl t).cause = s.cause := rfl
@[simp] theorem State.setTl_strapPins (t : Loader) : (s.setTl t).strapPins = s.strapPins := rfl
@[simp] theorem State.setTl_straps (t : Loader) : (s.setTl t).straps = s.straps := rfl
@[simp] theorem State.setTl_timestamp (t : Loader) : (s.setTl t).timestamp = s.timestamp := rfl
@[simp] theorem State.setTl_header (t : Loader) : (s.setTl t).header = s.header := rfl
@[simp] theorem State.setTl_windows (t : Loader) : (s.setTl t).windows = s.windows := rfl
@[simp] theorem State.setTl_rings (t : Loader) : (s.setTl t).rings = s.rings := rfl
@[simp] theorem State.setTl_cadence (t : Loader) : (s.setTl t).cadence = s.cadence := rfl
@[simp] theorem State.setTl_hp (t : Loader) : (s.setTl t).hp = s.hp := rfl
@[simp] theorem State.setTl_cells (t : Loader) : (s.setTl t).cells = s.cells := rfl
@[simp] theorem State.setTl_cu (t : Loader) : (s.setTl t).cu = s.cu := rfl
@[simp] theorem State.setTl_masters (t : Loader) : (s.setTl t).masters = s.masters := rfl
@[simp] theorem State.setTl_dn (t : Loader) : (s.setTl t).dn = s.dn := rfl
@[simp] theorem State.setTl_nw (t : Loader) : (s.setTl t).nw = s.nw := rfl
@[simp] theorem State.setTl_tl (t : Loader) : (s.setTl t).tl = t := rfl
@[simp] theorem State.setTl_ml (t : Loader) : (s.setTl t).ml = s.ml := rfl
@[simp] theorem State.setTl_hand (t : Loader) : (s.setTl t).hand = s.hand := rfl
@[simp] theorem State.setTl_out (t : Loader) : (s.setTl t).out = s.out := rfl
@[simp] theorem State.setTl_free (t : Loader) : (s.setTl t).free = s.free := rfl
@[simp] theorem State.setTl_pending (t : Loader) : (s.setTl t).pending = s.pending := rfl
@[simp] theorem State.setTl_ring (t : Loader) (q : RingNo) : (s.setTl t).ring q = s.ring q := rfl
@[simp] theorem State.setTl_cad (t : Loader) (q : RingNo) : (s.setTl t).cad q = s.cad q := rfl
@[simp] theorem State.setTl_cell (t : Loader) (d : CellNo) : (s.setTl t).cell d = s.cell d := rfl
@[simp] theorem State.setTl_master (t : Loader) (q : MasterNo) : (s.setTl t).master q = s.master q := rfl
@[simp] theorem State.setTl_window (t : Loader) (v : WindowNo) : (s.setTl t).window v = s.window v := rfl

/-! ### `setHand` -/

@[simp] theorem State.setHand_part (h : HandOffs) : (s.setHand h).part = s.part := rfl
@[simp] theorem State.setHand_resetAsserted (h : HandOffs) : (s.setHand h).resetAsserted = s.resetAsserted := rfl
@[simp] theorem State.setHand_cause (h : HandOffs) : (s.setHand h).cause = s.cause := rfl
@[simp] theorem State.setHand_strapPins (h : HandOffs) : (s.setHand h).strapPins = s.strapPins := rfl
@[simp] theorem State.setHand_straps (h : HandOffs) : (s.setHand h).straps = s.straps := rfl
@[simp] theorem State.setHand_timestamp (h : HandOffs) : (s.setHand h).timestamp = s.timestamp := rfl
@[simp] theorem State.setHand_header (h : HandOffs) : (s.setHand h).header = s.header := rfl
@[simp] theorem State.setHand_windows (h : HandOffs) : (s.setHand h).windows = s.windows := rfl
@[simp] theorem State.setHand_rings (h : HandOffs) : (s.setHand h).rings = s.rings := rfl
@[simp] theorem State.setHand_cadence (h : HandOffs) : (s.setHand h).cadence = s.cadence := rfl
@[simp] theorem State.setHand_hp (h : HandOffs) : (s.setHand h).hp = s.hp := rfl
@[simp] theorem State.setHand_cells (h : HandOffs) : (s.setHand h).cells = s.cells := rfl
@[simp] theorem State.setHand_cu (h : HandOffs) : (s.setHand h).cu = s.cu := rfl
@[simp] theorem State.setHand_masters (h : HandOffs) : (s.setHand h).masters = s.masters := rfl
@[simp] theorem State.setHand_dn (h : HandOffs) : (s.setHand h).dn = s.dn := rfl
@[simp] theorem State.setHand_nw (h : HandOffs) : (s.setHand h).nw = s.nw := rfl
@[simp] theorem State.setHand_tl (h : HandOffs) : (s.setHand h).tl = s.tl := rfl
@[simp] theorem State.setHand_ml (h : HandOffs) : (s.setHand h).ml = s.ml := rfl
@[simp] theorem State.setHand_hand (h : HandOffs) : (s.setHand h).hand = h := rfl
@[simp] theorem State.setHand_out (h : HandOffs) : (s.setHand h).out = s.out := rfl
@[simp] theorem State.setHand_free (h : HandOffs) : (s.setHand h).free = s.free := rfl
@[simp] theorem State.setHand_pending (h : HandOffs) : (s.setHand h).pending = s.pending := rfl
@[simp] theorem State.setHand_ring (h : HandOffs) (q : RingNo) : (s.setHand h).ring q = s.ring q := rfl
@[simp] theorem State.setHand_cad (h : HandOffs) (q : RingNo) : (s.setHand h).cad q = s.cad q := rfl
@[simp] theorem State.setHand_cell (h : HandOffs) (d : CellNo) : (s.setHand h).cell d = s.cell d := rfl
@[simp] theorem State.setHand_master (h : HandOffs) (q : MasterNo) : (s.setHand h).master q = s.master q := rfl
@[simp] theorem State.setHand_window (h : HandOffs) (v : WindowNo) : (s.setHand h).window v = s.window v := rfl

/-! ### `emit` -/

@[simp] theorem State.emit_part (o : Output) : (s.emit o).part = s.part := rfl
@[simp] theorem State.emit_resetAsserted (o : Output) : (s.emit o).resetAsserted = s.resetAsserted := rfl
@[simp] theorem State.emit_cause (o : Output) : (s.emit o).cause = s.cause := rfl
@[simp] theorem State.emit_strapPins (o : Output) : (s.emit o).strapPins = s.strapPins := rfl
@[simp] theorem State.emit_straps (o : Output) : (s.emit o).straps = s.straps := rfl
@[simp] theorem State.emit_timestamp (o : Output) : (s.emit o).timestamp = s.timestamp := rfl
@[simp] theorem State.emit_header (o : Output) : (s.emit o).header = s.header := rfl
@[simp] theorem State.emit_windows (o : Output) : (s.emit o).windows = s.windows := rfl
@[simp] theorem State.emit_rings (o : Output) : (s.emit o).rings = s.rings := rfl
@[simp] theorem State.emit_cadence (o : Output) : (s.emit o).cadence = s.cadence := rfl
@[simp] theorem State.emit_hp (o : Output) : (s.emit o).hp = s.hp := rfl
@[simp] theorem State.emit_cells (o : Output) : (s.emit o).cells = s.cells := rfl
@[simp] theorem State.emit_cu (o : Output) : (s.emit o).cu = s.cu := rfl
@[simp] theorem State.emit_masters (o : Output) : (s.emit o).masters = s.masters := rfl
@[simp] theorem State.emit_dn (o : Output) : (s.emit o).dn = s.dn := rfl
@[simp] theorem State.emit_nw (o : Output) : (s.emit o).nw = s.nw := rfl
@[simp] theorem State.emit_tl (o : Output) : (s.emit o).tl = s.tl := rfl
@[simp] theorem State.emit_ml (o : Output) : (s.emit o).ml = s.ml := rfl
@[simp] theorem State.emit_hand (o : Output) : (s.emit o).hand = s.hand := rfl
@[simp] theorem State.emit_out (o : Output) : (s.emit o).out = s.out ++ [o] := rfl
@[simp] theorem State.emit_free (o : Output) : (s.emit o).free = s.free := rfl
@[simp] theorem State.emit_pending (o : Output) : (s.emit o).pending = s.pending := rfl
@[simp] theorem State.emit_ring (o : Output) (q : RingNo) : (s.emit o).ring q = s.ring q := rfl
@[simp] theorem State.emit_cad (o : Output) (q : RingNo) : (s.emit o).cad q = s.cad q := rfl
@[simp] theorem State.emit_cell (o : Output) (d : CellNo) : (s.emit o).cell d = s.cell d := rfl
@[simp] theorem State.emit_master (o : Output) (q : MasterNo) : (s.emit o).master q = s.master q := rfl
@[simp] theorem State.emit_window (o : Output) (v : WindowNo) : (s.emit o).window v = s.window v := rfl

/-! ### `begin` -/

@[simp] theorem State.begin_part  : s.begin.part = s.part := rfl
@[simp] theorem State.begin_resetAsserted  : s.begin.resetAsserted = s.resetAsserted := rfl
@[simp] theorem State.begin_cause  : s.begin.cause = s.cause := rfl
@[simp] theorem State.begin_strapPins  : s.begin.strapPins = s.strapPins := rfl
@[simp] theorem State.begin_straps  : s.begin.straps = s.straps := rfl
@[simp] theorem State.begin_timestamp  : s.begin.timestamp = s.timestamp := rfl
@[simp] theorem State.begin_header  : s.begin.header = s.header := rfl
@[simp] theorem State.begin_windows  : s.begin.windows = s.windows := rfl
@[simp] theorem State.begin_rings  : s.begin.rings = s.rings := rfl
@[simp] theorem State.begin_cadence  : s.begin.cadence = s.cadence := rfl
@[simp] theorem State.begin_hp  : s.begin.hp = s.hp := rfl
@[simp] theorem State.begin_cells  : s.begin.cells = s.cells := rfl
@[simp] theorem State.begin_cu  : s.begin.cu = s.cu := rfl
@[simp] theorem State.begin_masters  : s.begin.masters = s.masters := rfl
@[simp] theorem State.begin_dn  : s.begin.dn = s.dn := rfl
@[simp] theorem State.begin_nw  : s.begin.nw = s.nw := rfl
@[simp] theorem State.begin_tl  : s.begin.tl = s.tl := rfl
@[simp] theorem State.begin_ml  : s.begin.ml = s.ml := rfl
@[simp] theorem State.begin_hand  : s.begin.hand = s.hand := rfl
@[simp] theorem State.begin_out  : s.begin.out = [] := rfl
@[simp] theorem State.begin_free  : s.begin.free = s.free := rfl
@[simp] theorem State.begin_pending  : s.begin.pending = s.pending := rfl
@[simp] theorem State.begin_ring  (q : RingNo) : s.begin.ring q = s.ring q := rfl
@[simp] theorem State.begin_cad  (q : RingNo) : s.begin.cad q = s.cad q := rfl
@[simp] theorem State.begin_cell  (d : CellNo) : s.begin.cell d = s.cell d := rfl
@[simp] theorem State.begin_master  (q : MasterNo) : s.begin.master q = s.master q := rfl
@[simp] theorem State.begin_window  (v : WindowNo) : s.begin.window v = s.window v := rfl

/-! ### `countHole` -/

@[simp] theorem State.countHole_part  : s.countHole.part = s.part := rfl
@[simp] theorem State.countHole_resetAsserted  : s.countHole.resetAsserted = s.resetAsserted := rfl
@[simp] theorem State.countHole_cause  : s.countHole.cause = s.cause := rfl
@[simp] theorem State.countHole_strapPins  : s.countHole.strapPins = s.strapPins := rfl
@[simp] theorem State.countHole_straps  : s.countHole.straps = s.straps := rfl
@[simp] theorem State.countHole_timestamp  : s.countHole.timestamp = s.timestamp := rfl
@[simp] theorem State.countHole_header  : s.countHole.header = s.header := rfl
@[simp] theorem State.countHole_windows  : s.countHole.windows = s.windows := rfl
@[simp] theorem State.countHole_rings  : s.countHole.rings = s.rings := rfl
@[simp] theorem State.countHole_cadence  : s.countHole.cadence = s.cadence := rfl
@[simp] theorem State.countHole_hp  : s.countHole.hp = s.hp := rfl
@[simp] theorem State.countHole_cells  : s.countHole.cells = s.cells := rfl
@[simp] theorem State.countHole_cu  : s.countHole.cu = s.cu := rfl
@[simp] theorem State.countHole_masters  : s.countHole.masters = s.masters := rfl
@[simp] theorem State.countHole_dn  : s.countHole.dn = s.dn := rfl
@[simp] theorem State.countHole_nw  : s.countHole.nw = s.nw := rfl
@[simp] theorem State.countHole_tl  : s.countHole.tl = s.tl := rfl
@[simp] theorem State.countHole_ml  : s.countHole.ml = s.ml := rfl
@[simp] theorem State.countHole_hand  : s.countHole.hand = s.hand := rfl
@[simp] theorem State.countHole_out  : s.countHole.out = s.out := rfl
@[simp] theorem State.countHole_free  : s.countHole.free = s.free + 1 := rfl
@[simp] theorem State.countHole_pending  : s.countHole.pending = s.pending := rfl
@[simp] theorem State.countHole_ring  (q : RingNo) : s.countHole.ring q = s.ring q := rfl
@[simp] theorem State.countHole_cad  (q : RingNo) : s.countHole.cad q = s.cad q := rfl
@[simp] theorem State.countHole_cell  (d : CellNo) : s.countHole.cell d = s.cell d := rfl
@[simp] theorem State.countHole_master  (q : MasterNo) : s.countHole.master q = s.master q := rfl
@[simp] theorem State.countHole_window  (v : WindowNo) : s.countHole.window v = s.window v := rfl

/-! ### A record after it is replaced -/

theorem State.setRing_ring (r q : RingNo) (k : Ring) : (s.setRing r k).ring q = if r = q then k else s.ring q :=
  Tbl.nth_put _ _ _ _

theorem State.setCad_cad (r q : RingNo) (k : Cadence) : (s.setCad r k).cad q = if r = q then k else s.cad q :=
  Tbl.nth_put _ _ _ _

theorem State.setCell_cell (c d : CellNo) (k : Cell) : (s.setCell c k).cell d = if c = d then k else s.cell d :=
  Tbl.nth_put _ _ _ _

theorem State.setMaster_master (m q : MasterNo) (k : Master) :
    (s.setMaster m k).master q = if m = q then k else s.master q :=
  Tbl.nth_put _ _ _ _

theorem State.setWindow_window (w v : WindowNo) (k : WindowWords) :
    (s.setWindow w k).window v = if w = v then k else s.window v :=
  Tbl.nth_put _ _ _ _

@[simp] theorem State.setRing_ring_self (r : RingNo) (k : Ring) : (s.setRing r k).ring r = k := Tbl.nth_put_self _ _ _

@[simp] theorem State.setCad_cad_self (r : RingNo) (k : Cadence) : (s.setCad r k).cad r = k := Tbl.nth_put_self _ _ _

@[simp] theorem State.setCell_cell_self (c : CellNo) (k : Cell) : (s.setCell c k).cell c = k := Tbl.nth_put_self _ _ _

@[simp] theorem State.setMaster_master_self (m : MasterNo) (k : Master) : (s.setMaster m k).master m = k :=
  Tbl.nth_put_self _ _ _

@[simp] theorem State.setWindow_window_self (w : WindowNo) (k : WindowWords) : (s.setWindow w k).window w = k :=
  Tbl.nth_put_self _ _ _

end Sys2Proof.Machine
end

