-- ==== Sys2Proof/Laws/Ops.lean ====
section
/-! SUPPORT. One lemma for each shared operation that says once what it does. -/

namespace Sys2Proof.Machine

variable (s : State)

/-! ### Answers, phases and forwarding -/

theorem State.begin_eq : s.begin = s.quiet := rfl

theorem State.answer_eq (m : MasterNo) (a : Answer) (h : (s.master m).outst ≠ .none) :
    s.answer m a =
      { s with masters := s.masters.put m { s.master m with outst := .none }, out := s.out ++ [.answer m a] } := by
  unfold State.answer
  split
  · contradiction
  · rfl

theorem State.answer_none (m : MasterNo) (a : Answer) (h : (s.master m).outst = .none) : s.answer m a = s := by
  simp [State.answer, h]

theorem State.begin_answer (m : MasterNo) (a : Answer) (h : (s.master m).outst ≠ .none) :
    s.begin.answer m a = s.answered m a :=
  State.answer_eq s.begin m a h

theorem State.setOutst_eq (m : MasterNo) (o : Outstanding) (h : (s.master m).outst ≠ .none) :
    s.setOutst m o = s.setMaster m { s.master m with outst := o } := by
  unfold State.setOutst
  split
  · contradiction
  · rfl

theorem State.setOutst_none (m : MasterNo) (o : Outstanding) (h : (s.master m).outst = .none) :
    s.setOutst m o = s := by
  simp [State.setOutst, h]

theorem State.forward_eq (m : MasterNo) (rq : Request) (p : Purpose) (h : (s.master m).outst ≠ .none) :
    s.forward m rq p =
      { s with
        masters := s.masters.put m { s.master m with outst := .queued rq },
        hand := { s.hand with joins := s.hand.joins ++ [forwarded m rq p] } } := by
  unfold State.forward
  rw [State.setOutst_eq s m _ h]
  rfl

theorem State.faultWithNotice_eq (m : MasterNo) (addr : Word) (reason : Reason) (w : Option WindowNo) (sub : Subject) :
    s.faultWithNotice m addr reason w sub = (s.answer m (.fault reason)).noticed (faultNotice reason m addr w sub) := rfl

theorem State.setLane_eq (r : RingNo) (side : Side) (l : Lane) :
    s.setLane r side l = s.setRing r ((s.ring r).setLane side l) := rfl

/-! ### Windows -/

theorem State.findWindow_none {a : Word}
    (h : ∀ w, winValid (s.window w) = true → winHolds (s.window w) a = false) : s.findWindow a = none := by
  simp only [State.findWindow, List.find?_eq_none]
  intro w _
  by_cases hv : winValid (s.window w) = true
  · simp [h w hv]
  · simp [hv]

/-! ### Park entries -/

theorem freeSlot_eq_some {i : EntryNo} (h : s.freeEntry i) : freeSlot s.hp.list = some i := by
  obtain ⟨hfree, hlow⟩ := h
  rw [freeSlot, List.find?_eq_some_iff_append]
  refine ⟨by simpa using hfree, (List.finRange 8).take i.val, (List.finRange 8).drop (i.val + 1), ?_, ?_⟩
  · conv_lhs => rw [← List.take_append_drop i.val (List.finRange 8)]
    rw [List.drop_eq_getElem_cons (by simp)]
    simp
  · intro j hj
    obtain ⟨k, hk, rfl⟩ := List.mem_iff_getElem.1 hj
    have hlt : k < i.val := by
      have := hk
      simp at this
      omega
    obtain ⟨e, he, hes⟩ := hlow ⟨k, by omega⟩ (by simpa [Fin.lt_def] using hlt)
    simp only [Bool.not_not, List.any_eq_true, beq_iff_eq]
    exact ⟨e, he, by simp [hes]⟩

theorem freeSlot_eq_none (h : s.poolFull) : freeSlot s.hp.list = none := by
  rw [freeSlot, List.find?_eq_none]
  intro i _
  obtain ⟨e, he, hes⟩ := h i
  simpa using ⟨e, he, hes⟩

theorem freeSlot_fresh {l : List ParkEntry} {i : EntryNo} (h : freeSlot l = some i) : ∀ e ∈ l, e.slot ≠ i := by
  have := List.find?_some h
  simpa using this

theorem State.park_first {i : EntryNo} (m : MasterNo) (rq : Request) (w : WindowNo) (t : Target) (c : Cause)
    (limit : BitVec 16) (h : s.freeEntry i) (hm : (s.master m).outst ≠ .none) :
    s.park m rq w t c limit none =
      some
        { s with
          masters := s.masters.put m { s.master m with outst := .parked rq },
          hp :=
            { list := s.hp.list ++
                [{ slot := i, master := m, rq := rq, window := w, target := t, cause := c, seq := s.hp.arrival,
                   order := s.hp.order, remaining := if limit = 0 then none else some limit }],
              arrival := s.hp.arrival + 1, order := s.hp.order + 1 } } := by
  simp only [State.park, freeSlot_eq_some s h]
  rw [State.setOutst_eq _ m _ (by simpa using hm)]
  rfl

theorem State.park_again {i : EntryNo} (m : MasterNo) (rq : Request) (w : WindowNo) (t : Target) (c : Cause)
    (limit : BitVec 16) (k : Woken) (h : s.freeEntry i) (hm : (s.master m).outst ≠ .none) :
    s.park m rq w t c limit (some k) =
      some
        { s with
          masters := s.masters.put m { s.master m with outst := .parked rq },
          hp :=
            { s.hp with
              list := insertByOrder
                { slot := i, master := m, rq := rq, window := w, target := t, cause := c, seq := k.seq,
                  order := k.order, remaining := k.remaining } s.hp.list } } := by
  simp only [State.park, freeSlot_eq_some s h]
  rw [State.setOutst_eq _ m _ (by simpa using hm)]
  rfl

theorem State.park_full (m : MasterNo) (rq : Request) (w : WindowNo) (t : Target) (c : Cause)
    (limit : BitVec 16) (via : Option Woken) (h : s.poolFull) : s.park m rq w t c limit via = none := by
  simp only [State.park, freeSlot_eq_none s h]

/-! ### The winner of a wake -/

/-- The greatest value of a measure on the members of a list that a test names. -/
theorem best_spec {α : Type} (p : α → Bool) (f : α → Nat) (l : List α) :
    (∀ x ∈ l, p x = true → f x ≤ l.foldr (fun e b => if p e then max (f e) b else b) 0) ∧
    ((∃ x ∈ l, p x = true) → ∃ x ∈ l, p x = true ∧ f x = l.foldr (fun e b => if p e then max (f e) b else b) 0) := by
  induction l with
  | nil => simp
  | cons a l ih =>
    obtain ⟨h1, h2⟩ := ih
    simp only [List.foldr_cons, List.mem_cons]
    by_cases ha : p a = true
    · simp only [ha, if_true]
      refine ⟨?_, fun _ => ?_⟩
      · rintro x (rfl | hx) hp
        · exact le_max_left _ _
        · exact le_trans (h1 x hx hp) (le_max_right _ _)
      · by_cases hle : l.foldr (fun e b => if p e then max (f e) b else b) 0 ≤ f a
        · exact ⟨a, Or.inl rfl, ha, (max_eq_left hle).symm⟩
        · by_cases hex : ∃ x ∈ l, p x = true
          · obtain ⟨x, hx, hp, hf⟩ := h2 hex
            exact ⟨x, Or.inr hx, hp, by rw [hf]; exact (max_eq_right (by omega)).symm⟩
          · exfalso
            apply hle
            have hz : ∀ l : List α, (¬ ∃ x ∈ l, p x = true) →
                l.foldr (fun e b => if p e then max (f e) b else b) 0 = 0 := by
              intro l
              induction l with
              | nil => simp
              | cons b l ih =>
                intro hn
                have hb : p b ≠ true := fun hb => hn ⟨b, by simp, hb⟩
                simp only [List.foldr_cons, hb]
                exact ih fun ⟨x, hx, hp⟩ => hn ⟨x, by simp [hx], hp⟩
            rw [hz l hex]
            exact Nat.zero_le _
    · simp only [ha]
      refine ⟨?_, ?_⟩
      · rintro x (rfl | hx) hp
        · exact absurd hp ha
        · exact h1 x hx hp
      · rintro ⟨x, (rfl | hx), hp⟩
        · exact absurd hp ha
        · obtain ⟨y, hy, hpy, hf⟩ := h2 ⟨x, hx, hp⟩
          exact ⟨y, Or.inr hy, hpy, hf⟩

theorem State.wins_iff (t : Target) (e : ParkEntry) :
    s.wins t e = true ↔ e.target = t ∧ s.entryPrio e = s.bestWaiter t := by
  simp [State.wins, ParkEntry.waitsFor]

theorem State.entryPrio_le (t : Target) {x : ParkEntry} (hx : x ∈ s.hp.list) (ht : x.target = t) :
    s.entryPrio x ≤ s.bestWaiter t :=
  (best_spec (ParkEntry.waitsFor t) s.entryPrio s.hp.list).1 x hx (by simp [ParkEntry.waitsFor, ht])

theorem State.winner_eq_none (t : Target) : s.winner t = none ↔ ∀ e ∈ s.hp.list, e.target ≠ t := by
  rw [State.winner, List.find?_eq_none]
  constructor
  · intro h e he ht
    obtain ⟨x, hx, hp, hf⟩ := (best_spec (ParkEntry.waitsFor t) s.entryPrio s.hp.list).2
      ⟨e, he, by simp [ParkEntry.waitsFor, ht]⟩
    exact h x hx ((State.wins_iff s t x).2 ⟨by simpa [ParkEntry.waitsFor] using hp, hf⟩)
  · intro h e he hw
    exact h e he ((State.wins_iff s t e).1 hw).1

theorem State.winner_eq_some {t : Target} {e : ParkEntry} (h : s.winner t = some e) :
    ∃ pre post, s.hp.list = pre ++ e :: post ∧ e.target = t ∧
      (∀ x ∈ s.hp.list, x.target = t → s.entryPrio x ≤ s.entryPrio e) ∧
      (∀ x ∈ pre, x.target = t → s.entryPrio x < s.entryPrio e) ∧
      (s.takeWinner t).hp.list = pre ++ post := by
  obtain ⟨hw, pre, post, hl, hpre⟩ := List.find?_eq_some_iff_append.1 h
  obtain ⟨ht, hb⟩ := (State.wins_iff s t e).1 hw
  refine ⟨pre, post, hl, ht, fun x hx hxt => hb ▸ s.entryPrio_le t hx hxt, fun x hx hxt => ?_, ?_⟩
  · have hle := s.entryPrio_le t (x := x) (by rw [hl]; simp [hx]) hxt
    have hne : ¬ s.wins t x = true := by simpa using hpre x hx
    rw [State.wins_iff] at hne
    rw [hb]
    exact lt_of_le_of_ne hle fun he => hne ⟨hxt, he⟩
  · simp only [State.takeWinner, State.setHp_hp]
    rw [hl, List.eraseP_append_right _ (by simpa using hpre), List.eraseP_cons_of_pos hw]

theorem State.takeWinner_eq_erase {t : Target} {e : ParkEntry} (h : s.winner t = some e) :
    s.takeWinner t = { s with hp := { s.hp with list := s.hp.list.erase e } } := by
  obtain ⟨hw, pre, post, hl, hpre⟩ := List.find?_eq_some_iff_append.1 h
  have hne : ∀ x ∈ pre, ¬ x = e := by
    rintro x hx rfl
    have := hpre x hx
    simp [hw] at this
  have h1 : s.hp.list.eraseP (s.wins t) = s.hp.list.erase e := by
    rw [hl, List.eraseP_append_right _ (by simpa using hpre), List.eraseP_cons_of_pos hw,
      List.erase_append_right _ (fun hm => hne e hm rfl), List.erase_cons_head]
  simp only [State.takeWinner, State.setHp, h1]

/-! ### The arbiter -/

theorem foldr_max_spec {α : Type} (f : α → Nat) (l : List α) :
    (∀ x ∈ l, f x ≤ l.foldr (fun e b => max (f e) b) 0) ∧
    (l ≠ [] → ∃ x ∈ l, f x = l.foldr (fun e b => max (f e) b) 0) := by
  have h := best_spec (fun _ => true) f l
  simp only [if_true] at h
  refine ⟨fun x hx => h.1 x hx trivial, fun hl => ?_⟩
  obtain ⟨x, hx⟩ := List.exists_mem_of_ne_nil l hl
  obtain ⟨y, hy, -, hf⟩ := h.2 ⟨x, hx, trivial⟩
  exact ⟨y, hy, hf⟩

theorem State.issue_eq (e : QueueEntry) (rest : List QueueEntry) :
    (s.setDn { s.dn with queue := rest }).issue e = s.issuedWith e rest := by
  unfold State.issue State.issuedWith
  cases e.source with
  | master m =>
    simp only [State.setDn_master]
    cases hm : (s.master m).outst <;>
      simp [State.setDn, State.setMaster, State.emit, Outstanding.issued]
  | noticeWriter => rfl
  | tableLoader => rfl

theorem State.arbitrate_busy (h : s.dn.link ≠ .idle) : s.arbitrate = s := by
  unfold State.arbitrate
  split
  · contradiction
  · rfl

theorem State.arbitrate_empty (h : s.dn.queue = []) : s.arbitrate = s := by
  unfold State.arbitrate
  split
  · simp [h]
  · rfl

theorem State.arbitrate_spec (h : s.dn.link = .idle) (hq : s.dn.queue ≠ []) :
    ∃ pre e post, s.dn.queue = pre ++ e :: post ∧
      (∀ x ∈ s.dn.queue, s.sourcePrio x.source ≤ s.sourcePrio e.source) ∧
      (∀ x ∈ pre, s.sourcePrio x.source < s.sourcePrio e.source) ∧
      s.arbitrate = s.issuedWith e (pre ++ post) := by
  obtain ⟨hle, hex⟩ := foldr_max_spec (fun e : QueueEntry => s.sourcePrio e.source) s.dn.queue
  obtain ⟨b, hb, hbp⟩ := hex hq
  have hbest : s.isBest b = true := by simp [State.isBest, State.bestPrio, hbp]
  have hsome : ∃ e, s.dn.queue.find? s.isBest = some e := by
    rw [← Option.isSome_iff_exists, List.find?_isSome]
    exact ⟨b, hb, hbest⟩
  obtain ⟨e, he⟩ := hsome
  obtain ⟨hw, pre, post, hl, hpre⟩ := List.find?_eq_some_iff_append.1 he
  have hep : s.sourcePrio e.source = s.bestPrio s.dn.queue := by simpa [State.isBest] using hw
  refine ⟨pre, e, post, hl, fun x hx => hep ▸ hle x hx, fun x hx => ?_, ?_⟩
  · have h1 := hle x (by rw [hl]; simp [hx])
    have h2 : ¬ s.isBest x = true := by simpa using hpre x hx
    have h3 : s.sourcePrio x.source ≠ s.bestPrio s.dn.queue := by simpa [State.isBest] using h2
    rw [hep]
    exact lt_of_le_of_ne h1 h3
  · have h1 : s.dn.queue.eraseP s.isBest = pre ++ post := by
      rw [hl, List.eraseP_append_right _ (by simpa using hpre), List.eraseP_cons_of_pos hw]
    unfold State.arbitrate
    rw [h]
    simp only [he, h1]
    rw [State.issue_eq]

theorem State.join_idle (e : QueueEntry) (h : s.dn.link = .idle) : s.join e = s.issuedWith e s.dn.queue := by
  unfold State.join
  rw [h]
  exact State.issue_eq s e s.dn.queue

theorem State.join_busy (e : QueueEntry) (h : s.dn.link ≠ .idle) :
    s.join e = { s with dn := { s.dn with queue := s.dn.queue ++ [e] } } := by
  unfold State.join
  split
  · contradiction
  · rfl

/-- The result of an ended request is on its way, and the arbiter has the link (R140, R144). -/
theorem State.endFlight_eq (e : QueueEntry) (ending : Ending) :
    s.begin.endFlight e ending = (s.flightEnded e ending).arbitrate := by
  rcases e with ⟨src, purpose, dir, addr, len, data⟩
  cases purpose <;> rfl

/-! ### The notice writer's evaluation -/

theorem State.nwEvaluate_cases :
    s.nwEvaluate = s ∨
      ∃ rec rest r w, s.nw.writer = .idle ∧ s.nw.queue = rec :: rest ∧ s.header.noticeRing = some r ∧
        s.boundWindow r = some w ∧ s.mayWrite r = true ∧
        s.nwEvaluate =
          { s with
            nw := { s.nw with queue := rest, writer := .writing { rec with lost := s.nw.lost } },
            rings := s.rings.put r { s.ring r with producer := .busy 0 false },
            hand := { s.hand with joins := s.hand.joins ++
              [{ source := .noticeWriter, purpose := .notice r, dir := .write,
                 addr := cursorAddr (winBase (s.window w)) (s.ring r) .producer, len := 64,
                 data := recordBytes { rec with lost := s.nw.lost } }] } } := by
  unfold State.nwEvaluate
  split
  · next rec rest r h1 h2 h3 =>
    split
    · next w hw =>
      split
      · next hm => exact Or.inr ⟨rec, rest, r, w, h1, h2, h3, hw, hm, rfl⟩
      · exact Or.inl rfl
    · exact Or.inl rfl
  · exact Or.inl rfl

theorem State.mayWrite_iff (r : RingNo) :
    s.mayWrite r = true ↔
      s.part = .running ∧ (s.ring r).state = .running ∧ (s.ring r).producer = .free ∧
        (s.ring r).fill < (s.ring r).cfg.slotCount := by
  simp [State.mayWrite, and_assoc]

/-! ### Wakes -/

theorem Ring.wakeCondition_iff (k : Ring) (side : Side) : k.wakeCondition side = true ↔ k.mayWake side := by
  cases side
  · cases h : k.cfg.overrun <;> simp [Ring.wakeCondition, Ring.mayWake, h]
  · cases h : k.cfg.underrun <;> simp [Ring.wakeCondition, Ring.mayWake, h]

/-- What a wake request does for a direction that HP is asked for: nothing, or the winner takes the lane (R44, R66). -/
theorem State.wakeSide_cases (r : RingNo) (side : Side) :
    (side = .producer ∧ s.header.noticeRing = some r ∧ s.wakeSide r side = s.nwEvaluate) ∨
    s.wakeSide r side = s ∨
    ∃ e, (s.ring r).wakeCondition side = true ∧ s.winner (.ring r side) = some e ∧
      s.wakeSide r side =
        (((s.takeWinner (.ring r side)).setRing r ((s.ring r).setLane side (.reserved e.master))).setOutst e.master
          (.laneHeld e.rq
            { ring := r, side := side, window := e.window, seq := e.seq, order := e.order,
              remaining := e.remaining.map held })) := by
  unfold State.wakeSide
  split
  · next h => exact Or.inl ⟨h.1, h.2, rfl⟩
  · split
    · next hc =>
      split
      · exact Or.inr (Or.inl rfl)
      · next e he => exact Or.inr (Or.inr ⟨e, hc, he, rfl⟩)
    · exact Or.inr (Or.inl rfl)

/-! ### The end of an ownership -/

theorem State.endOwnership_cases (c : CellNo) (forced : Bool) :
    (s.winner (.cell c) = none ∧
      s.endOwnership c forced = s.setCell c { (s.cell c).ended forced with owner := none }) ∨
    ∃ e, s.winner (.cell c) = some e ∧
      s.endOwnership c forced =
        ((s.takeWinner (.cell c)).setCell c
          (((s.cell c).ended forced).grant e.master (winLease (s.window e.window)))).answer e.master
            (.done (wordBytes 0)) := by
  unfold State.endOwnership
  split
  · next h => exact Or.inl ⟨h, rfl⟩
  · next e h => exact Or.inr ⟨e, h, rfl⟩

end Sys2Proof.Machine
end

