-- ==== Sys2Proof/Laws/Admission.lean ====
section
/-! SUPPORT. What admission and a replay come to, once the checks of R12 have been passed or failed. -/

namespace Sys2Proof.Machine

variable (s : State) {m : MasterNo} {rq : Request} {w : WindowNo} {r : RingNo} {c : CellNo} {k : Woken}
  {via : Option Woken}

theorem Outstanding.ne_none_of_admitting {o : Outstanding} (h : o = .admitting rq) : o ≠ .none := by rw [h]; simp

theorem Outstanding.ne_none_of_laneHeld {o : Outstanding} (h : o = .laneHeld rq k) : o ≠ .none := by rw [h]; simp

theorem State.begin_judge : s.begin.judge m rq = s.judge m rq := rfl

/-- A request that passes steps 1 to 5 is judged by its window's kind (R12). -/
theorem State.judge_reaches (h : s.reaches m rq w) : s.judge m rq = s.judgeKind m rq w := by
  obtain ⟨h1, h2, h3, h4, h5⟩ := h
  simp [State.judge, h1, h2, h3, h4, h5]

theorem State.exec_admission (h : (s.master m).outst = .admitting rq) :
    exec (.admission m) s = .next (s.begin.takeAdmission m rq none) := by
  simp [exec, execAdmission, h]

theorem State.exec_replay (h : (s.master m).outst = .laneHeld rq k) :
    exec (.replay m) s = .next (s.begin.takeAdmission m rq (some k)) := by
  simp [exec, execReplay, h]

theorem State.begin_faultWithNotice {a : Word} {reason : Reason} {v : Option WindowNo} {sub : Subject}
    (h : (s.master m).outst ≠ .none) :
    s.begin.faultWithNotice m a reason v sub =
      (s.answered m (.fault reason)).noticed (faultNotice reason m a v sub) := by
  rw [State.faultWithNotice, State.begin_answer s m _ h]
  rfl

theorem State.admit_claim (h : s.judge m rq = .claim w c) :
    s.takeAdmission m rq via = (s.claimHandle m rq w c via).dropReservation m via := by simp [State.takeAdmission, h]

theorem State.admit_ring (h : s.judge m rq = .ring w r) : s.takeAdmission m rq via = s.ringHandle m rq w r via := by
  simp [State.takeAdmission, h]

/-- An admission that fails is one FAULT with its notice (R13). -/
theorem State.admission_of_fault {reason : Reason} {v : Option WindowNo} (h : (s.master m).outst = .admitting rq)
    (hj : s.judge m rq = .fault reason v) (hr : reason ≠ .notReady) :
    exec (.admission m) s =
      .next ((s.answered m (.fault reason)).noticed (faultNotice reason m rq.addr v .none)) := by
  rw [State.exec_admission s h, State.takeAdmission, State.begin_judge, hj]
  simp only [State.admissionFault, hr, if_false, State.dropReservation]
  rw [State.begin_faultWithNotice s (Outstanding.ne_none_of_admitting h)]

/-- A request in a CLAIM window is handed to the claim unit (R15). -/
theorem State.admission_of_claim (h : (s.master m).outst = .admitting rq) (hr : s.reaches m rq w)
    (hk : winKind (s.window w) = .claim) (hc : winCellOf (s.window w) rq.addr = c) :
    exec (.admission m) s = .next (s.begin.claimHandle m rq w c none) := by
  rw [State.exec_admission s h, State.admit_claim]
  · rfl
  · rw [State.begin_judge, State.judge_reaches s hr, State.judgeKind]
    simp [hk, hc]

/-- A request in a RING window is handed to the ring tracker (R15). -/
theorem State.admission_of_ring (h : (s.master m).outst = .admitting rq) (hr : s.reachesRing m rq w r) :
    exec (.admission m) s = .next (s.begin.ringHandle m rq w r none) := by
  obtain ⟨h1, h2, h3, -⟩ := hr
  rw [State.exec_admission s h, State.admit_ring]
  rw [State.begin_judge, State.judge_reaches s h1, State.judgeKind]
  simp [h2, h3]

/-- A woken request that lands in a RING window is handed to the ring tracker with what HP handed over (R16). -/
theorem State.replay_of_ring (h : (s.master m).outst = .laneHeld rq k) (hr : s.reachesRing m rq w r) :
    exec (.replay m) s = .next (s.begin.ringHandle m rq w r (some k)) := by
  obtain ⟨h1, h2, h3, -⟩ := hr
  rw [State.exec_replay s h, State.admit_ring]
  rw [State.begin_judge, State.judge_reaches s h1, State.judgeKind]
  simp [h2, h3]

/-- A ring request of a member on a RUNNING ring comes to the lane check (R31). -/
theorem State.admission_of_running (h : (s.master m).outst = .admitting rq) (hr : s.reachesRing m rq w r)
    (hs : (s.ring r).state = .running) :
    exec (.admission m) s = .next (s.begin.laneCheck m rq w r none) := by
  rw [State.admission_of_ring s h hr, State.ringHandle]
  have e1 : winMember (s.begin.window w) rq.dir m = true := hr.2.2.2
  have e2 : (s.begin.ring r).state = .running := hs
  simp only [e1, e2, if_true]
  rfl

end Sys2Proof.Machine
end

