-- ==== Sys2Proof/Laws/Rings.lean ====
section
/-! SUPPORT. The lanes and the bound window of a ring, and the changes of a ring record that keep the ring laws (R26, R36). -/

namespace Sys2Proof.Machine

variable {k : Ring} {s t : State}

/-! ### Lanes -/

@[simp] theorem Ring.setLane_setLane (k : Ring) (side : Side) (a b : Lane) :
    (k.setLane side a).setLane side b = k.setLane side b := by
  cases side <;> rfl

theorem Ring.setLane_lane (k : Ring) (side : Side) {l : Lane} (h : k.lane side = l) : k.setLane side l = k := by
  subst h
  cases side <;> rfl

theorem State.setLane_ring (s : State) (r : RingNo) (side : Side) (l : Lane) :
    (s.setLane r side l).ring r = (s.ring r).setLane side l := by
  simp [State.setLane, State.setRing, State.ring]

theorem State.setLane_setLane (s : State) (r : RingNo) (side : Side) (a b : Lane) :
    (s.setLane r side a).setLane r side b = s.setLane r side b := by
  simp only [State.setLane, State.setRing, State.ring, Tbl.nth_put_self, Tbl.put_put, Ring.setLane_setLane]

theorem Lane.detach_ne_busy (l : Lane) (m : MasterNo) : l.detach ≠ .busy m false := by cases l <;> simp [Lane.detach]

theorem Lane.release_ne_busy (l : Lane) (m : MasterNo) : l.release ≠ .busy m false := by
  cases l <;> simp [Lane.release]

theorem Lane.busy_of_not_detached {l : Lane} (h : l.isDetached = false) : ∃ m, l = .busy m false := by
  cases l with
  | busy m d =>
    cases d
    · exact ⟨m, rfl⟩
    · simp [Lane.isDetached] at h
  | free => simp [Lane.isDetached] at h
  | reserved m => simp [Lane.isDetached] at h

/-! ### The bound window -/

theorem State.boundWindow_congr (h : s.windows = t.windows) (r : RingNo) : s.boundWindow r = t.boundWindow r := by
  simp only [State.boundWindow, State.window, h]

/-- The commit signal of a bound ring: nothing but the hand-offs changes. -/
theorem State.signalCommit_of {r : RingNo} {v : WindowNo} (m : MasterNo) (a : Word) (h : s.boundWindow r = some v)
    (ht : t.windows = s.windows) :
    t.signalCommit r m a = t.setHand { t.hand with commits := t.hand.commits ++ [{ ring := r, master := m, addr := a }] } := by
  simp only [State.signalCommit, State.countUnbound, State.boundWindow_congr ht r, h]

theorem State.ringBase_of {r : RingNo} {v : WindowNo} (h : s.boundWindow r = some v) (ht : t.windows = s.windows) :
    t.ringBase r = winBase (s.window v) := by
  simp only [State.ringBase, State.boundWindow_congr ht r, h, State.window, ht]

/-! ### Changes that keep the ring laws -/

theorem ringWellFormed_count {c : RingConfig} (h : ringWellFormed c = true) : 0 < c.slotCount := by
  simp only [ringWellFormed, Bool.and_eq_true, decide_eq_true_eq] at h
  omega

/-- A lane that does not become BUSY with a clear mark keeps the laws. -/
theorem Ring.law_setLane (h : k.law) (side : Side) (l : Lane) (hl : ∀ m, l ≠ .busy m false) :
    (k.setLane side l).law := by
  obtain ⟨a, b, c, d, e, f, g, hp, hc⟩ := h
  cases side
  · exact ⟨a, b, c, d, e, f, g, fun m q => absurd q (hl m), hc⟩
  · exact ⟨a, b, c, d, e, f, g, hp, fun m q => absurd q (hl m)⟩

/-- The producer lane becomes BUSY where the ring has room (R36). -/
theorem Ring.law_producerBusy (h : k.law) (m : MasterNo) (hf : k.fill < k.cfg.slotCount) :
    (k.setLane .producer (.busy m false)).law := by
  obtain ⟨a, b, c, d, e, f, g, -, hc⟩ := h
  exact ⟨a, b, c, d, e, f, g, fun _ _ => hf, hc⟩

/-- The consumer lane becomes BUSY where the ring holds a slot (R36). -/
theorem Ring.law_consumerBusy (h : k.law) (m : MasterNo) (hf : 1 ≤ k.fill) :
    (k.setLane .consumer (.busy m false)).law := by
  obtain ⟨a, b, c, d, e, f, g, hp, -⟩ := h
  exact ⟨a, b, c, d, e, f, g, hp, fun _ _ => hf⟩

theorem Ring.law_detachLanes (h : k.law) : k.detachLanes.law := by
  obtain ⟨a, b, c, d, e, f, g, -, -⟩ := h
  exact ⟨a, b, c, d, e, f, g, fun m q => absurd q (Lane.detach_ne_busy _ m),
    fun m q => absurd q (Lane.detach_ne_busy _ m)⟩

theorem Ring.law_state (h : k.law) (st : RingState) (hs : st ≠ .off → ringWellFormed k.cfg = true) :
    ({ k with state := st } : Ring).law := by
  obtain ⟨a, -, c, d, e, f, g, hp, hc⟩ := h
  exact ⟨a, hs, c, d, e, f, g, hp, hc⟩

/-- Cursors and fill at 0 meet the laws, when no access is attached. -/
theorem Ring.law_zeroCursors (h1 : k.cfg = RingConfig.unconfigured ∨ ringWellFormed k.cfg = true)
    (h2 : k.state ≠ .off → ringWellFormed k.cfg = true) (hp : ∀ m, k.producer ≠ .busy m false)
    (hc : ∀ m, k.consumer ≠ .busy m false) : k.zeroCursors.law := by
  refine ⟨h1, h2, Nat.zero_le _, ?_, fun h => Nat.pos_of_ne_zero h, fun _ => rfl, fun _ => rfl,
    fun m q => absurd q (hp m), fun m q => absurd q (hc m)⟩
  show 0 = (0 + 0) % _
  simp

end Sys2Proof.Machine
end

