-- ==== Sys2Proof/Laws/Commands.lean ====
section
/-! SUPPORT. The management link's taking of a command, its arguments, the operations that leave its record alone, and the resets. -/

namespace Sys2Proof.Machine

/-! ### Arguments -/

theorem numArg_val {n : Nat} (i : Fin n) (hn : n ≤ 256) : numArg n (BitVec.ofNat 8 i.val) = some i := by
  have h := i.isLt
  have e : (BitVec.ofNat 8 i.val).toNat = i.val := by
    simp
    omega
  simp only [numArg, e, h, dif_pos, Fin.eta]

theorem numArg_big {n : Nat} {b : Byte} (h : n ≤ b.toNat) : numArg n b = none := by
  simp only [numArg]
  rw [dif_neg (by omega)]

theorem masterArg_val (m : MasterNo) (h : m ≠ 0) : masterArg (BitVec.ofNat 8 m.val) = some m := by
  have hv : m.val ≠ 0 := fun e => h (Fin.ext e)
  have : ¬ (BitVec.ofNat 8 m.val) = 0 := by
    intro e
    have := congrArg BitVec.toNat e
    simp at this
    omega
  simp only [masterArg, if_neg this, numArg_val m (by omega)]

theorem masterArg_bad {b : Byte} (h : b = 0 ∨ 16 ≤ b.toNat) : masterArg b = none := by
  rcases h with h | h
  · simp [masterArg, h]
  · simp [masterArg, numArg_big h]

/-! ### Taking a command -/

/-- `s` as the owner of a command sees it: the frame is numbered and nothing is driven (R187, R189). -/
abbrev State.framed (s : State) : State := { s.quiet with ml := { s.ml with frame := nextFrame s.ml.frame } }

/-- A command that the link takes is checked and applied by its owner (R190). -/
theorem State.takeCommand_ready {s : State} (h : s.linkReady) (code : Byte) (owner : State → Reply) :
    s.begin.takeCommand code owner =
      (owner s.framed).state.respond code s.ml.frame (owner s.framed).status false (owner s.framed).data := by
  obtain ⟨h1, h2⟩ := h
  have e1 : s.begin.resetAsserted = false := h1
  have e2 : s.begin.ml.long = none := h2
  simp only [State.takeCommand, e1, e2]
  rfl

/-- A command that its owner refuses changes nothing outside ML (R194). -/
theorem State.takeCommand_refused {s : State} (h : s.linkReady) (code : Byte) (owner : State → Reply) (st : Status)
    (ho : owner s.framed = refuse s.framed st) : s.begin.takeCommand code owner = s.responded code st [] := by
  rw [State.takeCommand_ready h, ho]
  simp [refuse, State.respond, State.setMl, State.responded, State.linkAfter, State.quiet, State.framed]

/-- A command whose owner leaves ML alone ends with ML's record of it (R189, R190). -/
theorem State.takeCommand_state {s : State} (h : s.linkReady) (code : Byte) (owner : State → Reply) (st : Status)
    (data : List Byte) (u : State) (ho : owner s.framed = ⟨st, data, u⟩) (hu : u.ml = s.framed.ml) :
    s.begin.takeCommand code owner = { u with ml := s.linkAfter code st data } := by
  rw [State.takeCommand_ready h, ho]
  simp [State.respond, State.setMl, State.linkAfter, hu]

/-! ### Operations that leave the link's record alone -/

theorem State.nwEvaluate_setMl (s : State) (m : MgmtLink) : (s.setMl m).nwEvaluate = s.nwEvaluate.setMl m := by
  unfold State.nwEvaluate
  have e : ∀ r, (s.setMl m).boundWindow r = s.boundWindow r := fun r => State.boundWindow_congr (by rfl) r
  simp only [State.setMl_nw, State.setMl_header, e]
  split
  · split
    · by_cases hm : s.mayWrite ‹_› = true
      · have hm2 : (s.setMl m).mayWrite ‹_› = true := hm
        rw [if_pos hm, if_pos hm2]
        rfl
      · have hm2 : ¬ (s.setMl m).mayWrite ‹_› = true := hm
        rw [if_neg hm, if_neg hm2]
    · rfl
  · rfl

theorem State.setOutst_setMl (s : State) (m : MgmtLink) (q : MasterNo) (o : Outstanding) :
    (s.setMl m).setOutst q o = (s.setOutst q o).setMl m := by
  unfold State.setOutst
  rw [State.setMl_master]
  split <;> rfl

theorem State.answer_setMl (s : State) (m : MgmtLink) (q : MasterNo) (a : Answer) :
    (s.setMl m).answer q a = (s.answer q a).setMl m := by
  unfold State.answer
  rw [State.setMl_master]
  split <;> rfl

theorem State.wakeSide_setMl (s : State) (m : MgmtLink) (r : RingNo) (side : Side) :
    (s.setMl m).wakeSide r side = (s.wakeSide r side).setMl m := by
  unfold State.wakeSide
  have e0 : (s.setMl m).header = s.header := rfl
  have e1 : (s.setMl m).ring r = s.ring r := rfl
  have e2 : (s.setMl m).winner (.ring r side) = s.winner (.ring r side) := rfl
  rw [e0, e1, e2]
  split
  · exact State.nwEvaluate_setMl s m
  · split
    · cases h : s.winner (.ring r side) with
      | none => rfl
      | some e => exact State.setOutst_setMl ((s.takeWinner (.ring r side)).setRing r _) m _ _
    · rfl

theorem State.wakeRequests_setMl (s : State) (m : MgmtLink) (r : RingNo) :
    (s.setMl m).wakeRequests r = (s.wakeRequests r).setMl m := by
  unfold State.wakeRequests
  have e1 : (s.setMl m).ring r = s.ring r := rfl
  rw [e1]
  split
  · rw [State.wakeSide_setMl, State.wakeSide_setMl]
  · rfl

/-! ### The resets -/

theorem State.answer_master_ne (s : State) (m : MasterNo) (a : Answer) {q : MasterNo} (h : m ≠ q) :
    (s.answer m a).master q = s.master q := by
  unfold State.answer
  split
  · rfl
  · simp [State.emit, State.setMaster, State.master, Tbl.nth_put_ne _ _ h]

theorem foldl_keeps {α β : Type} (f : State → α → State) (g : State → β) (h : ∀ s a, g (f s a) = g s) :
    ∀ (l : List α) (s : State), g (l.foldl f s) = g s
  | [], _ => rfl
  | a :: l, s => by rw [List.foldl_cons, foldl_keeps f g h l, h]

theorem State.answerAll_dn (s : State) (reason : Reason) : (s.answerAll reason).dn = s.dn :=
  foldl_keeps _ State.dn (fun s m => by unfold State.answer; split <;> rfl) _ _

theorem State.answerAll_ml (s : State) (reason : Reason) : (s.answerAll reason).ml = s.ml :=
  foldl_keeps _ State.ml (fun s m => by unfold State.answer; split <;> rfl) _ _

theorem State.answerAll_pending (s : State) (reason : Reason) : (s.answerAll reason).pending = s.pending :=
  foldl_keeps _ State.pending (fun s m => by unfold State.answer; split <;> rfl) _ _

theorem State.answerAll_free (s : State) (reason : Reason) : (s.answerAll reason).free = s.free :=
  foldl_keeps _ State.free (fun s m => by unfold State.answer; split <;> rfl) _ _

theorem State.answerAll_cause (s : State) (reason : Reason) : (s.answerAll reason).cause = s.cause :=
  foldl_keeps _ State.cause (fun s m => by unfold State.answer; split <;> rfl) _ _

theorem State.answerAll_straps (s : State) (reason : Reason) : (s.answerAll reason).straps = s.straps :=
  foldl_keeps _ State.straps (fun s m => by unfold State.answer; split <;> rfl) _ _

/-- What the beginning of a soft reset leaves, with the answers it gives (R173, R202). -/
theorem State.beginSoftReset_eq (s : State) (st : Straps) :
    s.beginSoftReset st =
      { State.reset with
        resetAsserted := false, strapPins := st, straps := s.straps, cause := s.cause, ml := s.ml,
        out := (s.answerAll .reset).out, free := s.free, pending := s.pending,
        dn := { queue := [], link := s.dn.link.softReset, tag := 0 } } := by
  unfold State.beginSoftReset
  simp only [State.answerAll_straps, State.answerAll_cause, State.answerAll_ml, State.answerAll_free, State.answerAll_pending,
    State.answerAll_dn]

/-- The end of a reset, with the table base of R172 written out (R171 to R173). -/
theorem State.endReset_eq (u : State) (c : ResetCause) {st : Straps} (hs : u.strapPins = st) :
    u.endReset c =
      if st.loadOnReset then
        { u with
          part := .loading, straps := st, resetAsserted := false, cause := c
          tl := { u.tl with
            load := some
              { origin := .reset, addr := BitVec.ofNat 32 (4096 * st.tablePage.toNat), reads := 0, staging := [] } },
          hand := { u.hand with
            joins := u.hand.joins ++
              [({ source := .tableLoader, purpose := .table, dir := .read,
                  addr := BitVec.ofNat 32 (4096 * st.tablePage.toNat), len := 64, data := [] } : QueueEntry)] } }
      else { u with part := .halted, straps := st, resetAsserted := false, cause := c } := by
  have hb : tableBase st = BitVec.ofNat 32 (4096 * st.tablePage.toNat) := by
    apply BitVec.eq_of_toNat_eq
    have := st.tablePage.isLt
    simp [tableBase, Nat.shiftLeft_eq]
    omega
  unfold State.endReset
  rw [hs]
  dsimp only
  split
  · simp only [State.beginLoad, tableRead, hb, Nat.mul_zero, BitVec.add_zero]
    rfl
  · rfl

end Sys2Proof.Machine
end

