-- ==== Sys2Proof/Laws/Frames.lean ====
section
/-! SUPPORT. What the handling of a request, a result, a wake or a notice leaves alone: one frame, kept by each shared operation. -/

namespace Sys2Proof.Machine

/-- `t` comes from `s` by changes to no more than the ring records but their configurations, the hold pool, the cells, the phases of
the masters, the notice writer, the hand-offs, what is driven on the links and the count of free values. -/
structure State.Handled (s t : State) : Prop where
  part : t.part = s.part
  resetAsserted : t.resetAsserted = s.resetAsserted
  cause : t.cause = s.cause
  strapPins : t.strapPins = s.strapPins
  straps : t.straps = s.straps
  timestamp : t.timestamp = s.timestamp
  header : t.header = s.header
  windows : t.windows = s.windows
  cadence : t.cadence = s.cadence
  cu : t.cu = s.cu
  dn : t.dn = s.dn
  tl : t.tl = s.tl
  ml : t.ml = s.ml
  pending : t.pending = s.pending
  cfg : ∀ r, (t.ring r).cfg = (s.ring r).cfg
  prio : ∀ m, (t.master m).prio = (s.master m).prio
  mstate : ∀ m, (t.master m).state = (s.master m).state
  filled : t.nw.filled = s.nw.filled

namespace State.Handled

variable {s t u : State}

theorem refl (s : State) : s.Handled s := by constructor <;> intros <;> rfl

theorem trans (h : s.Handled t) (k : t.Handled u) : s.Handled u where
  part := k.part.trans h.part
  resetAsserted := k.resetAsserted.trans h.resetAsserted
  cause := k.cause.trans h.cause
  strapPins := k.strapPins.trans h.strapPins
  straps := k.straps.trans h.straps
  timestamp := k.timestamp.trans h.timestamp
  header := k.header.trans h.header
  windows := k.windows.trans h.windows
  cadence := k.cadence.trans h.cadence
  cu := k.cu.trans h.cu
  dn := k.dn.trans h.dn
  tl := k.tl.trans h.tl
  ml := k.ml.trans h.ml
  pending := k.pending.trans h.pending
  cfg r := (k.cfg r).trans (h.cfg r)
  prio m := (k.prio m).trans (h.prio m)
  mstate m := (k.mstate m).trans (h.mstate m)
  filled := k.filled.trans h.filled

end State.Handled

open State.Handled

variable {s t : State}

/-! ### The plain updates -/

theorem State.Handled.setHand (h : s.Handled t) (x : HandOffs) : s.Handled (t.setHand x) :=
  h.trans (by constructor <;> intros <;> rfl)

theorem State.Handled.setHp (h : s.Handled t) (x : HoldPool) : s.Handled (t.setHp x) :=
  h.trans (by constructor <;> intros <;> rfl)

theorem State.Handled.setCell (h : s.Handled t) (c : CellNo) (x : Cell) : s.Handled (t.setCell c x) :=
  h.trans (by constructor <;> intros <;> rfl)

theorem State.Handled.emit (h : s.Handled t) (x : Output) : s.Handled (t.emit x) :=
  h.trans (by constructor <;> intros <;> rfl)

theorem State.Handled.begin (h : s.Handled t) : s.Handled t.begin :=
  h.trans (by constructor <;> intros <;> rfl)

theorem State.Handled.setRing (h : s.Handled t) (r : RingNo) (k : Ring) (hk : k.cfg = (t.ring r).cfg) :
    s.Handled (t.setRing r k) := by
  refine h.trans ⟨rfl, rfl, rfl, rfl, rfl, rfl, rfl, rfl, rfl, rfl, rfl, rfl, rfl, rfl, fun q => ?_, fun _ => rfl, fun _ => rfl, rfl⟩
  simp only [State.ring, State.setRing, Tbl.nth_put]
  split
  · next e => subst e; exact hk
  · rfl

theorem State.Handled.setMaster (h : s.Handled t) (m : MasterNo) (k : Master) (hp : k.prio = (t.master m).prio)
    (hs : k.state = (t.master m).state) : s.Handled (t.setMaster m k) := by
  refine h.trans ⟨rfl, rfl, rfl, rfl, rfl, rfl, rfl, rfl, rfl, rfl, rfl, rfl, rfl, rfl, fun _ => rfl, fun q => ?_, fun q => ?_, rfl⟩
  all_goals
    simp only [State.master, State.setMaster, Tbl.nth_put]
    split
    · next e => subst e; assumption
    · rfl

theorem State.Handled.setNw (h : s.Handled t) (x : NoticeWriter) (hx : x.filled = t.nw.filled) : s.Handled (t.setNw x) := by
  refine h.trans ⟨rfl, rfl, rfl, rfl, rfl, rfl, rfl, rfl, rfl, rfl, rfl, rfl, rfl, rfl, fun _ => rfl, fun _ => rfl, fun _ => rfl, hx⟩

/-! ### The shared operations -/

theorem State.Handled.setOutst (h : s.Handled t) (m : MasterNo) (o : Outstanding) : s.Handled (t.setOutst m o) := by
  unfold State.setOutst
  split
  · exact h
  · exact h.setMaster m { t.master m with outst := o } rfl rfl

theorem State.Handled.answer (h : s.Handled t) (m : MasterNo) (a : Answer) : s.Handled (t.answer m a) := by
  unfold State.answer
  split
  · exact h
  · exact (h.setMaster m { t.master m with outst := .none } rfl rfl).emit _

theorem State.Handled.giveNotice (h : s.Handled t) (n : Notice) : s.Handled (t.giveNotice n) := h.setHand _

theorem State.Handled.faultWithNotice (h : s.Handled t) (m : MasterNo) (addr : Word) (reason : Reason)
    (w : Option WindowNo) (sub : Subject) : s.Handled (t.faultWithNotice m addr reason w sub) :=
  (h.answer m _).giveNotice _

theorem State.Handled.handJoin (h : s.Handled t) (e : QueueEntry) : s.Handled (t.handJoin e) := h.setHand _

theorem State.Handled.forward (h : s.Handled t) (m : MasterNo) (rq : Request) (p : Purpose) :
    s.Handled (t.forward m rq p) := (h.setOutst m _).handJoin _

theorem State.Handled.park (h : s.Handled t) {m : MasterNo} {rq : Request} {w : WindowNo} {target : Target} {c : Cause}
    {limit : BitVec 16} {via : Option Woken} {u : State} (hp : t.park m rq w target c limit via = some u) :
    s.Handled u := by
  unfold State.park at hp
  split at hp
  · cases hp
  · split at hp
    · cases hp; exact (h.setHp _).setOutst m _
    · cases hp; exact (h.setHp _).setOutst m _

theorem State.Handled.takeWinner (h : s.Handled t) (x : Target) : s.Handled (t.takeWinner x) := h.setHp _

theorem State.Handled.answerEntries (reason : Reason) :
    ∀ (l : List ParkEntry) {t : State}, s.Handled t → s.Handled (t.answerEntries reason l)
  | [], _, h => h
  | _ :: l, _, h => answerEntries reason l (h.answer _ _)

theorem State.Handled.noticeEntries (reason : Reason) (r : RingNo) :
    ∀ (l : List ParkEntry) {t : State}, s.Handled t → s.Handled (t.noticeEntries reason r l)
  | [], _, h => h
  | _ :: l, _, h => noticeEntries reason r l (h.giveNotice _)

theorem State.Handled.cancelEntries (h : s.Handled t) (reason : Reason) (p : ParkEntry → Bool) :
    s.Handled (t.cancelEntries reason p) := answerEntries reason _ (h.setHp _)

theorem State.Handled.cancelRing (h : s.Handled t) (reason : Reason) (r : RingNo) : s.Handled (t.cancelRing reason r) :=
  noticeEntries reason r _ (h.cancelEntries reason _)

@[simp] theorem Ring.setLane_cfg (k : Ring) (side : Side) (l : Lane) : (k.setLane side l).cfg = k.cfg := by
  cases side <;> rfl

theorem State.Handled.setLane (h : s.Handled t) (r : RingNo) (side : Side) (l : Lane) : s.Handled (t.setLane r side l) :=
  h.setRing r _ (by simp)

theorem State.Handled.nwEvaluate (h : s.Handled t) : s.Handled t.nwEvaluate := by
  rcases t.nwEvaluate_cases with e | ⟨rec, rest, r, w, h1, h2, -, -, -, e⟩
  · rw [e]; exact h
  · rw [e]
    have hn : NoticeWriter.filled { t.nw with queue := rest, writer := .writing { rec with lost := t.nw.lost } } = t.nw.filled := by
      simp [NoticeWriter.filled, h1, h2]
    exact ((h.setNw _ hn).setRing r { t.ring r with producer := .busy 0 false } rfl).setHand _

theorem State.Handled.wakeSide (h : s.Handled t) (r : RingNo) (side : Side) : s.Handled (t.wakeSide r side) := by
  rcases t.wakeSide_cases r side with ⟨-, -, e⟩ | e | ⟨x, -, -, e⟩
  · rw [e]; exact h.nwEvaluate
  · rw [e]; exact h
  · rw [e]; exact ((h.takeWinner _).setRing r _ (by simp [State.takeWinner])).setOutst _ _

theorem State.Handled.wakeRequests (h : s.Handled t) (r : RingNo) : s.Handled (t.wakeRequests r) := by
  unfold State.wakeRequests
  split
  · exact (h.wakeSide r _).wakeSide r _
  · exact h

theorem State.Handled.endOwnership (h : s.Handled t) (c : CellNo) (forced : Bool) : s.Handled (t.endOwnership c forced) := by
  rcases t.endOwnership_cases c forced with ⟨-, e⟩ | ⟨x, -, e⟩
  · rw [e]; exact h.setCell c _
  · rw [e]; exact ((h.takeWinner _).setCell c _).answer _ _

theorem State.Handled.forceEnd (h : s.Handled t) (kind : NoticeKind) (c : CellNo) (m : MasterNo) :
    s.Handled (t.forceEnd kind c m) := (h.endOwnership c true).giveNotice _

/-! ### The ring tracker -/

theorem State.Handled.ringFault (h : s.Handled t) (m : MasterNo) (rq : Request) (w : WindowNo) (r : RingNo)
    (reason : Reason) : s.Handled (t.ringFault m rq w r reason) := h.faultWithNotice _ _ _ _ _

theorem State.Handled.freeLane (h : s.Handled t) (r : RingNo) (side : Side) : s.Handled (t.freeLane r side) :=
  (h.setLane r side _).wakeRequests r

theorem State.Handled.dropReservation (h : s.Handled t) (m : MasterNo) (via : Option Woken) :
    s.Handled (t.dropReservation m via) := by
  unfold State.dropReservation
  split
  · exact h
  · split
    · exact h.freeLane _ _
    · exact h

theorem State.Handled.ringPark (h : s.Handled t) (m : MasterNo) (rq : Request) (w : WindowNo) (r : RingNo) (c : Cause)
    (via : Option Woken) : s.Handled (t.ringPark m rq w r c via) := by
  unfold State.ringPark
  dsimp only
  split
  · next u hu => exact h.park hu
  · exact h.ringFault _ _ _ _ _

theorem State.Handled.stray (h : s.Handled t) (m : MasterNo) (rq : Request) (w : WindowNo) (r : RingNo) :
    s.Handled (t.stray m rq w r) := by
  unfold State.stray
  dsimp only
  split
  · exact ((h.setRing r _ (by simp)).ringFault _ _ _ _ _).wakeRequests r
  · exact (((h.setRing r _ (by simp [Ring.detachLanes])).ringFault _ _ _ _ _).giveNotice _).setHand _

theorem State.Handled.refuseRing (h : s.Handled t) (m : MasterNo) (rq : Request) (w : WindowNo) (r : RingNo)
    (reason : Reason) : s.Handled (t.refuseRing m rq w r reason) :=
  ((h.setLane r _ _).ringFault _ _ _ _ _).wakeRequests r

theorem State.Handled.holdRing (h : s.Handled t) (m : MasterNo) (rq : Request) (w : WindowNo) (r : RingNo) (c : Cause)
    (via : Option Woken) : s.Handled (t.holdRing m rq w r c via) :=
  ((h.setLane r _ _).ringPark _ _ _ _ _ _).wakeRequests r

theorem State.Handled.producerFlow (h : s.Handled t) (m : MasterNo) (rq : Request) (w : WindowNo) (r : RingNo)
    (via : Option Woken) : s.Handled (t.producerFlow m rq w r via) := by
  unfold State.producerFlow
  dsimp only
  split
  · exact h.forward _ _ _
  · split
    · exact h.holdRing _ _ _ _ _ _
    · exact h.refuseRing _ _ _ _ _
    · split
      · exact ((((h.setRing r _ (by rfl)).giveNotice _).forward _ _ _)).wakeRequests r
      · exact h.holdRing _ _ _ _ _ _

theorem State.Handled.consumerFlow (h : s.Handled t) (m : MasterNo) (rq : Request) (w : WindowNo) (r : RingNo)
    (via : Option Woken) : s.Handled (t.consumerFlow m rq w r via) := by
  unfold State.consumerFlow
  dsimp only
  split
  · exact h.forward _ _ _
  · split
    · exact h.holdRing _ _ _ _ _ _
    · exact h.refuseRing _ _ _ _ _
    · exact ((h.setRing r _ (by rfl)).answer _ _).wakeRequests r

theorem State.Handled.laneCheck (h : s.Handled t) (m : MasterNo) (rq : Request) (w : WindowNo) (r : RingNo)
    (via : Option Woken) : s.Handled (t.laneCheck m rq w r via) := by
  unfold State.laneCheck
  dsimp only
  split
  · split
    · split
      · exact (h.setLane r _ _).producerFlow _ _ _ _ _
      · exact (h.setLane r _ _).consumerFlow _ _ _ _ _
    · exact (h.setLane r _ _).stray _ _ _ _
  · exact h.ringPark _ _ _ _ _ _

theorem State.Handled.ringHandle (h : s.Handled t) (m : MasterNo) (rq : Request) (w : WindowNo) (r : RingNo)
    (via : Option Woken) : s.Handled (t.ringHandle m rq w r via) := by
  unfold State.ringHandle
  split
  · split
    · exact (h.ringFault _ _ _ _ _).dropReservation _ _
    · exact (h.ringFault _ _ _ _ _).dropReservation _ _
    · exact (h.laneCheck _ _ _ _ _).dropReservation _ _
  · exact (h.ringFault _ _ _ _ _).dropReservation _ _

theorem State.Handled.takeResult (h : s.Handled t) (p : DownResult → Bool) : s.Handled (t.takeResult p) := h.setHand _

theorem State.Handled.answerSource (h : s.Handled t) (src : Source) (a : Answer) : s.Handled (t.answerSource src a) := by
  unfold State.answerSource
  split
  · split
    · exact h.answer _ _
    · exact h
  · exact h
  · exact h

theorem State.Handled.noteDetached (h : s.Handled t) (r : RingNo) (src : Source) (d : Bool) :
    s.Handled (t.noteDetached r src d) := by
  unfold State.noteDetached
  split
  · split
    · exact h.setHand _
    · exact h
  · exact h

@[simp] theorem Ring.producerAdvance_cfg (k : Ring) (len : Nat) : (k.producerAdvance len).cfg = k.cfg := by
  unfold Ring.producerAdvance; split <;> rfl

@[simp] theorem Ring.consumerAdvance_cfg (k : Ring) (len : Nat) : (k.consumerAdvance len).cfg = k.cfg := by
  unfold Ring.consumerAdvance; split <;> rfl

theorem State.Handled.countUnbound (h : s.Handled t) (r : RingNo) : s.Handled (t.countUnbound r) := by
  unfold State.countUnbound
  split
  · exact h
  · exact { h with }

theorem State.Handled.cadenceNotice (h : s.Handled t) (r : RingNo) (m : MasterNo) (a : Option Word) (old new : CadClass)
    (i : BitVec 16) (w : Bool) : s.Handled (t.cadenceNotice r m a old new i w) := (h.countUnbound r).giveNotice _

theorem State.Handled.signalCommit (h : s.Handled t) (r : RingNo) (m : MasterNo) (a : Word) :
    s.Handled (t.signalCommit r m a) := (h.countUnbound r).setHand _

theorem State.Handled.producerDone (h : s.Handled t) (r : RingNo) (e : QueueEntry) : s.Handled (t.producerDone r e) := by
  unfold State.producerDone
  dsimp only
  refine (((?_ : s.Handled _).answerSource _ _).noteDetached _ _ _).wakeRequests r
  split
  · refine State.Handled.signalCommit (h.setRing r _ ?_) _ _ _
    dsimp only
    split <;> simp
  · refine h.setRing r _ ?_
    dsimp only
    split <;> simp

theorem State.Handled.consumerDone (h : s.Handled t) (r : RingNo) (e : QueueEntry) (data : List Byte) :
    s.Handled (t.consumerDone r e data) := by
  unfold State.consumerDone
  dsimp only
  refine ((h.setRing r _ ?_).answerSource _ _).wakeRequests r
  split <;> simp

theorem State.Handled.noticeSource (h : s.Handled t) (e : QueueEntry) (ending : Ending) (sub : Subject) :
    s.Handled (t.noticeSource e ending sub) := by
  unfold State.noticeSource
  split
  · exact h.giveNotice _
  · exact h
  · exact h

theorem State.Handled.accessFailed (h : s.Handled t) (r : RingNo) (side : Side) (e : QueueEntry) (ending : Ending) :
    s.Handled (t.accessFailed r side e ending) :=
  ((((h.setLane r _ _).answerSource _ _).noticeSource _ _ _).noteDetached _ _ _).wakeRequests r

/-! ### The claim unit and admission -/

theorem State.Handled.claimHandle (h : s.Handled t) (m : MasterNo) (rq : Request) (w : WindowNo) (c : CellNo)
    (via : Option Woken) : s.Handled (t.claimHandle m rq w c via) := by
  unfold State.claimHandle
  split
  · split
    · split
      · unfold State.claimRead
        split
        · exact (h.setCell c _).answer _ _
        · split
          · exact h.answer _ _
          · split
            · split
              · next u hu => exact h.park hu
              · exact h.answer _ _
            · exact h.answer _ _
      · unfold State.claimWrite
        split
        · exact (h.answer _ _).endOwnership _ _
        · split
          · exact (h.setCell c _).faultWithNotice _ _ _ _ _
          · exact h.faultWithNotice _ _ _ _ _
    · exact h.faultWithNotice _ _ _ _ _
  · exact h.faultWithNotice _ _ _ _ _

theorem State.Handled.takeAdmission (h : s.Handled t) (m : MasterNo) (rq : Request) (via : Option Woken) :
    s.Handled (t.takeAdmission m rq via) := by
  unfold State.takeAdmission
  split
  · refine State.Handled.dropReservation ?_ _ _
    unfold State.admissionFault
    split
    · exact h.answer _ _
    · exact h.faultWithNotice _ _ _ _ _
  · exact (h.forward _ _ _).dropReservation _ _
  · exact h.ringHandle _ _ _ _ _
  · exact (h.claimHandle _ _ _ _ _).dropReservation _ _

/-- A change that `Handled` allows, when `s` is given the new cadence records: the frame of the operations that also stop watch timers. -/
theorem State.Handled.withCadence (h : s.Handled t) : { s with cadence := t.cadence }.Handled t :=
  { h with cadence := rfl }

theorem State.Handled.stopWatch (h : s.Handled t) (r : RingNo) :
    { s with cadence := (t.stopWatch r).cadence }.Handled (t.stopWatch r) :=
  ⟨h.part, h.resetAsserted, h.cause, h.strapPins, h.straps, h.timestamp, h.header, h.windows, rfl, h.cu, h.dn, h.tl, h.ml, h.pending,
    h.cfg, h.prio, h.mstate, h.filled⟩

theorem State.Handled.runEntryRing (h : s.Handled t) (r : RingNo) :
    { s with cadence := (t.runEntryRing r).cadence }.Handled (t.runEntryRing r) := by
  unfold State.runEntryRing
  split
  · exact (((h.setRing r _ (by rfl)).setHand _).wakeRequests r).withCadence
  · split
    · exact h.withCadence
    · exact h.stopWatch r

theorem State.Handled.foldl_runEntryRing :
    ∀ (l : List RingNo) {s t : State}, s.Handled t →
      { s with cadence := (l.foldl State.runEntryRing t).cadence }.Handled (l.foldl State.runEntryRing t)
  | [], _, _, h => h.withCadence
  | r :: l, s, t, h => foldl_runEntryRing l (s := { s with cadence := (t.runEntryRing r).cadence }) (h.runEntryRing r)

end Sys2Proof.Machine
end

