-- ==== Sys2Proof/Laws/Layout.lean ====
section
/-! SUPPORT. Bytes and words read back, and the sizes of the layouts. -/

namespace Sys2Proof

@[simp] theorem wordBytes_wordOf (b0 b1 b2 b3 : Byte) : wordBytes (wordOf b0 b1 b2 b3) = [b0, b1, b2, b3] := by
  simp only [wordBytes, wordOf, List.cons.injEq, and_true]
  refine ⟨?_, ?_, ?_, ?_⟩ <;>
    (apply BitVec.eq_of_getLsbD_eq
     intro i hi
     rw [BitVec.getLsbD_extractLsb']
     simp only [BitVec.getLsbD_append]
     interval_cases i <;> simp)

theorem wordOf_wordBytes (w : Word) :
    wordOf (w.extractLsb' 0 8) (w.extractLsb' 8 8) (w.extractLsb' 16 8) (w.extractLsb' 24 8) = w := by
  apply BitVec.eq_of_getLsbD_eq
  intro i hi
  simp only [wordOf, BitVec.getLsbD_append, BitVec.getLsbD_extractLsb']
  interval_cases i <;> simp

@[simp] theorem wordBytes_length (w : Word) : (wordBytes w).length = 4 := rfl

@[simp] theorem bytesOf_nil : bytesOf [] = [] := rfl

@[simp] theorem bytesOf_cons (w : Word) (ws : List Word) : bytesOf (w :: ws) = wordBytes w ++ bytesOf ws := rfl

@[simp] theorem bytesOf_append (v w : List Word) : bytesOf (v ++ w) = bytesOf v ++ bytesOf w := by
  simp [bytesOf]

@[simp] theorem bytesOf_length (ws : List Word) : (bytesOf ws).length = 4 * ws.length := by
  induction ws with
  | nil => rfl
  | cons w ws ih => simp [ih]; omega

@[simp] theorem wordsOf_bytesOf (ws : List Word) : wordsOf (bytesOf ws) = ws := by
  induction ws with
  | nil => rfl
  | cons w ws ih => simp [wordBytes, wordsOf, ih, wordOf_wordBytes]

theorem bytesOf_wordsOf : ∀ (n : Nat) (l : List Byte), l.length = 4 * n → bytesOf (wordsOf l) = l
  | 0, [], _ => rfl
  | n + 1, b0 :: b1 :: b2 :: b3 :: rest, h => by
    have hr : rest.length = 4 * n := by simp at h; omega
    simp [wordsOf, bytesOf_wordsOf n rest hr]

theorem wordsOf_length : ∀ (n : Nat) (l : List Byte), l.length = 4 * n → (wordsOf l).length = n
  | 0, [], _ => rfl
  | n + 1, b0 :: b1 :: b2 :: b3 :: rest, h => by
    have hr : rest.length = 4 * n := by simp at h; omega
    simp [wordsOf, wordsOf_length n rest hr]

theorem bytesOf_getElem? (w : Word) :
    ∀ (n i : Nat), i < n → ∀ k, k < 4 → (bytesOf (List.replicate n w))[4 * i + k]? = (wordBytes w)[k]?
  | n + 1, 0, _, k, hk => by
    rw [List.replicate_succ, bytesOf_cons, List.getElem?_append_left (by simpa using hk)]
    simp
  | n + 1, i + 1, hi, k, hk => by
    rw [List.replicate_succ, bytesOf_cons, List.getElem?_append_right (by simp; omega)]
    have e : 4 * (i + 1) + k - (wordBytes w).length = 4 * i + k := by simp; omega
    rw [e]
    exact bytesOf_getElem? w n i (by omega) k hk

namespace Machine

@[simp] theorem wordBytes_replyWord (o : MasterNo) (g : BitVec 8) (waited : Bool) :
    wordBytes (replyWord (some o) g waited) = [BitVec.ofNat 8 o.val, g, 0, if waited then 128 else 0] := by
  simp [replyWord, masterByte, byteOf]

@[simp] theorem wordBytes_zero : wordBytes 0 = [0, 0, 0, 0] := by decide

@[simp] theorem recordWords_length (r : NoticeRecord) : (recordWords r).length = 16 := rfl

@[simp] theorem recordBytes_length (r : NoticeRecord) : (recordBytes r).length = 64 := by simp [recordBytes]

@[simp] theorem encodeHeader_length (h : Header) : (encodeHeader h).length = 16 := rfl

@[simp] theorem encodeRing_length (c : RingConfig) : (encodeRing c).length = 8 := rfl

end Machine

end Sys2Proof
end

