-- ==== Sys2Proof/Laws/Lists.lean ====
section
/-! SUPPORT. The first element of a list that a test names, and the list without it. -/

namespace Sys2Proof

variable {α : Type}

theorem find?_of_split {p : α → Bool} {l pre post : List α} {x : α} (hl : l = pre ++ x :: post) (hx : p x = true)
    (hpre : ∀ y ∈ pre, p y = false) : l.find? p = some x := by
  rw [List.find?_eq_some_iff_append]
  exact ⟨hx, pre, post, hl, by simpa using hpre⟩

theorem eraseP_of_split {p : α → Bool} {l pre post : List α} {x : α} (hl : l = pre ++ x :: post) (hx : p x = true)
    (hpre : ∀ y ∈ pre, p y = false) : l.eraseP p = pre ++ post := by
  rw [hl, List.eraseP_append_right _ (by simpa using hpre), List.eraseP_cons_of_pos hx]

theorem eraseP_eq_erase_of_find? [DecidableEq α] {p : α → Bool} {l : List α} {x : α} (h : l.find? p = some x) :
    l.eraseP p = l.erase x := by
  obtain ⟨hx, pre, post, hl, hpre⟩ := List.find?_eq_some_iff_append.1 h
  have hne : x ∉ pre := fun hm => by simpa [hx] using hpre x hm
  rw [eraseP_of_split hl hx (by simpa using hpre), hl, List.erase_append_right _ hne, List.erase_cons_head]

end Sys2Proof
end

