-- ==== Sys2Proof/Laws/Loader.lean ====
section
/-! SUPPORT. The searches of the table checks, the symmetry of the conflicts, what a decoded record meets, and the end of a load. -/

namespace Sys2Proof.Machine

/-! ### Searches in number order -/

theorem find?_finRange_none {n : Nat} {p : Fin n → Bool} (h : (List.finRange n).find? p = none) (i : Fin n) :
    p i = false := by
  have := List.find?_eq_none.1 h i (List.mem_finRange i)
  simpa using this

theorem find?_finRange_some {n : Nat} {p : Fin n → Bool} {j : Fin n} (h : (List.finRange n).find? p = some j) :
    p j = true ∧ ∀ i, i < j → p i = false := by
  rw [List.find?_eq_some_iff_append] at h
  obtain ⟨h1, pre, post, h2, h3⟩ := h
  refine ⟨h1, fun i hi => ?_⟩
  have hm : i ∈ pre ++ j :: post := h2 ▸ List.mem_finRange i
  rcases List.mem_append.1 hm with hm | hm
  · simpa using h3 i hm
  · exfalso
    have hs : (List.finRange n).Pairwise (· < ·) := List.pairwise_lt_finRange n
    rw [h2, List.pairwise_append] at hs
    have := (List.pairwise_cons.1 hs.2.1).1
    rcases List.mem_cons.1 hm with rfl | hm
    · exact lt_irrefl _ hi
    · exact lt_asymm hi (this i hm)

/-- A search in number order finds the lowest number that passes. -/
theorem find?_finRange_eq_some {n : Nat} {p : Fin n → Bool} {j : Fin n} (hj : p j = true) (hlow : ∀ i, i < j → p i = false) :
    (List.finRange n).find? p = some j := by
  rcases h : (List.finRange n).find? p with _ | k
  · exact absurd (find?_finRange_none h j) (by simp [hj])
  · obtain ⟨hk, below⟩ := find?_finRange_some h
    rcases lt_trichotomy k j with hlt | rfl | hlt
    · exact absurd (hlow k hlt) (by simp [hk])
    · rfl
    · exact absurd (below j hlt) (by simp [hj])

/-- A search in number order finds nothing when no number passes. -/
theorem find?_finRange_eq_none {n : Nat} {p : Fin n → Bool} (h : ∀ j, p j = false) : (List.finRange n).find? p = none :=
  List.find?_eq_none.2 fun j _ => by simp [h j]

theorem firstClash_none {c : WindowNo → WindowNo → Bool} (h : firstClash c = none) (i j : WindowNo) (hij : i < j) :
    c i j = false := by
  have := find?_finRange_none h j
  simp only [List.any_eq_false] at this
  have := this i (List.mem_finRange i)
  simpa [hij] using this

theorem firstClash_some {c : WindowNo → WindowNo → Bool} {j : WindowNo} (h : firstClash c = some j) :
    (∃ i, i < j ∧ c i j = true) ∧ ∀ k, k < j → ∀ i, i < k → c i k = false := by
  obtain ⟨h1, h2⟩ := find?_finRange_some h
  refine ⟨?_, fun k hk i hi => ?_⟩
  · simp only [List.any_eq_true] at h1
    obtain ⟨i, -, hi⟩ := h1
    simp only [Bool.and_eq_true, decide_eq_true_eq] at hi
    exact ⟨i, hi⟩
  · have := h2 k hk
    simp only [List.any_eq_false] at this
    simpa [hi] using this i (List.mem_finRange i)

/-- The lowest number that clashes with a lower one is found (R178). -/
theorem firstClash_eq_some {c : WindowNo → WindowNo → Bool} {i j : WindowNo} (hij : i < j) (hc : c i j = true)
    (hlow : ∀ k, k < j → ∀ l, l < k → c l k = false) : firstClash c = some j := by
  refine find?_finRange_eq_some ?_ fun k hk => ?_
  · exact List.any_eq_true.2 ⟨i, List.mem_finRange i, by simp [hij, hc]⟩
  · refine List.any_eq_false.2 fun l _ => ?_
    by_cases hl : l < k <;> simp [hl, hlow k hk l]

theorem firstClash_eq_none {c : WindowNo → WindowNo → Bool} (h : ∀ i j, i < j → c i j = false) : firstClash c = none := by
  refine find?_finRange_eq_none fun j => List.any_eq_false.2 fun i _ => ?_
  by_cases hl : i < j
  · simp [hl, h i j hl]
  · simp [hl]

/-! ### Conflicts -/

theorem winOverlap_comm (v w : WindowWords) : winOverlap v w = winOverlap w v := by
  simp only [winOverlap]
  ac_rfl

theorem winCellsOverlap_comm (v w : WindowWords) : winCellsOverlap v w = winCellsOverlap w v := by
  simp only [winCellsOverlap]
  ac_rfl

theorem winSameRing_comm (v w : WindowWords) : winSameRing v w = winSameRing w v := by
  simp only [winSameRing]
  rw [Bool.beq_comm (a := winRing v)]
  ac_rfl

/-! ### Decoded records -/

theorem decodeRingConfig_wellFormed {w : RingWords} {c : RingConfig} (h : decodeRingConfig w = some c) :
    ringWellFormed c = true := by
  unfold decodeRingConfig at h
  split at h
  · next hc =>
    cases h
    simp only [Bool.and_eq_true] at hc
    exact hc.2
  · cases h

theorem decodeImageRing_wellFormed {w : RingWords} {c : RingConfig} (h : decodeImageRing w = some c) :
    c = RingConfig.unconfigured ∨ ringWellFormed c = true := by
  unfold decodeImageRing at h
  split at h
  · cases h
    exact Or.inl rfl
  · exact Or.inr (decodeRingConfig_wellFormed h)

theorem decodeHeader_inRange {a b : Word} {w : Tbl Word 14} {h : Header} (hh : decodeHeader a b w = some h) :
    h.inRange ∧ h.format = a ∧ h.balance = b := by
  unfold decodeHeader at hh
  dsimp only at hh
  split at hh
  · next hc =>
    cases hh
    exact ⟨⟨hc.2.2.1, hc.2.2.2.1, hc.2.2.2.2.2.2.2.2.1⟩, rfl, rfl⟩
  · cases hh

/-! ### The end of a load -/

theorem State.completeLoad_eq (s : State) : s.completeLoad = { s with ml := s.afterLoad } := by
  unfold State.completeLoad State.afterLoad
  cases h : s.ml.long with
  | none => rfl
  | some p =>
    rcases p with ⟨c, f⟩
    cases c <;> rfl

theorem State.failLoad_eq (s : State) (f : Failure) : s.begin.failLoad f = s.loadFailed f.code f.index := by
  rw [State.failLoad, State.completeLoad_eq]
  rfl

theorem State.copyHeader_master (s : State) (m : MasterNo) :
    s.copyHeader.master m = if m = 0 then s.master m else { s.master m with prio := s.header.prios.nth m } := by
  simp only [State.copyHeader, State.master, copyPrios, Tbl.nth_tabulate]
  by_cases hm : m = 0
  · subst hm
    rfl
  · have : ¬ m.val = 0 := fun h => hm (Fin.ext h)
    rw [if_neg this, if_neg hm]

end Sys2Proof.Machine
end

