-- ==== Sys2Proof/Laws/Pool.lean ====
section
/-! SUPPORT. The hold pool's lists: what is left when an entry is taken, where a re-parked entry goes, and what a cancellation does. -/

namespace Sys2Proof.Machine

/-! ### Entries taken and put back -/

/-- The entries left after one was taken are other masters', when no master waits twice (R57). -/
theorem eraseP_other_masters {l : List ParkEntry} {e : ParkEntry} {p : ParkEntry → Bool} (hf : l.find? p = some e)
    (hn : (l.map (·.master)).Nodup) : ∀ x ∈ l.eraseP p, x.master ≠ e.master := by
  obtain ⟨hp, pre, post, rfl, hpre⟩ := List.find?_eq_some_iff_append.1 hf
  rw [List.eraseP_append_right _ (by simpa using hpre), List.eraseP_cons_of_pos hp]
  intro x hx hxe
  simp only [List.map_append, List.map_cons] at hn
  rw [List.nodup_middle, List.nodup_cons] at hn
  apply hn.1
  rw [← List.map_append, ← hxe]
  exact List.mem_map_of_mem hx

theorem insertByOrder_perm (e : ParkEntry) : ∀ l, (insertByOrder e l).Perm (e :: l)
  | [] => .refl _
  | x :: l => by
    unfold insertByOrder
    split
    · exact ((insertByOrder_perm e l).cons x).trans (.swap e x l)
    · exact .refl _

/-- A re-parked entry goes behind those that first parked before it and ahead of those that first parked after it (R62). -/
theorem insertByOrder_between (e : ParkEntry) : ∀ {pre post : List ParkEntry}, (∀ x ∈ pre, x.order < e.order) →
    (∀ x ∈ post, e.order < x.order) → insertByOrder e (pre ++ post) = pre ++ e :: post
  | [], [], _, _ => rfl
  | [], x :: post, _, h => by
    have : ¬ x.order < e.order := by have := h x (by simp); omega
    simp [insertByOrder, this]
  | x :: pre, post, hp, h => by
    have : x.order < e.order := hp x (by simp)
    simp [insertByOrder, this, insertByOrder_between e (fun y hy => hp y (List.mem_cons_of_mem _ hy)) h]

/-- A list in the order of first parking stays so when an entry with another first parking is put back into it (R57, R62). -/
theorem insertByOrder_sorted (e : ParkEntry) : ∀ {l : List ParkEntry}, (l.Pairwise fun a b => a.order < b.order) →
    (∀ x ∈ l, x.order ≠ e.order) → (insertByOrder e l).Pairwise fun a b => a.order < b.order
  | [], _, _ => by simp [insertByOrder]
  | x :: l, h, hne => by
    rw [List.pairwise_cons] at h
    unfold insertByOrder
    split
    · next hx =>
      refine List.pairwise_cons.2 ⟨fun y hy => ?_, insertByOrder_sorted e h.2 fun y hy => hne y (by simp [hy])⟩
      rcases List.mem_cons.1 ((insertByOrder_perm e l).mem_iff.1 hy) with rfl | hy
      · exact hx
      · exact h.1 y hy
    · next hx =>
      have hlt : e.order < x.order := by have := hne x (by simp); omega
      refine List.pairwise_cons.2 ⟨fun y hy => ?_, List.pairwise_cons.2 h⟩
      rcases List.mem_cons.1 hy with rfl | hy
      · exact hlt
      · exact hlt.trans (h.1 y hy)

/-- Entries in different places are at most 8 (R57). -/
theorem length_le_of_slots {l : List ParkEntry} (h : (l.map (·.slot)).Nodup) : l.length ≤ 8 := by
  have := h.length_le_card
  simpa using this

/-! ### Cancellations -/

/-- Each master of the list is answered once, in list order (R72 to R76). -/
theorem State.answerEntries_eq (reason : Reason) : ∀ (l : List ParkEntry) (s : State), (l.map (·.master)).Nodup →
    (∀ e ∈ l, (s.master e.master).outst ≠ .none) →
    s.answerEntries reason l =
      { s with
        masters := Tbl.tabulate fun m =>
          if l.any fun e => e.master == m then { s.master m with outst := .none } else s.master m
        out := s.out ++ l.map fun e => .answer e.master (.fault reason) }
  | [], s, _, _ => by
    simp only [State.answerEntries, List.any_nil, Bool.false_eq_true, if_false, List.map_nil, List.append_nil]
    have : Tbl.tabulate (fun m => s.master m) = s.masters := by ext i; simp [State.master]
    rw [this]
  | e :: l, s, hn, ho => by
    rw [State.answerEntries, State.answer_eq s _ _ (ho e (by simp))]
    simp only [List.map_cons, List.nodup_cons] at hn
    have hne : ∀ x ∈ l, x.master ≠ e.master := by
      intro x hx h
      exact hn.1 (List.mem_map.2 ⟨x, hx, h⟩)
    rw [State.answerEntries_eq reason l _ hn.2]
    · simp only [List.map_cons, List.append_assoc, List.singleton_append]
      congr 1
      ext m
      simp only [State.master, Tbl.nth_tabulate, List.any_cons]
      by_cases hm : e.master = m
      · subst hm
        have : (l.any fun x => x.master == e.master) = false := by simpa using hne
        simp [this]
      · simp [Tbl.nth_put_ne _ _ hm, hm]
    · intro x hx
      simp only [State.master, Tbl.nth_put_ne _ _ (Ne.symm (hne x hx))]
      exact ho x (by simp [hx])

/-- A cancellation is `State.cancelled`, when the entries meet their law (R57, R72 to R76). -/
theorem State.cancelEntries_eq (s : State) (h : s.waiterLaw) (reason : Reason) (p : ParkEntry → Bool) :
    s.begin.cancelEntries reason p = s.cancelled reason p := by
  obtain ⟨-, -, h3, h4⟩ := h
  rw [State.cancelEntries, State.answerEntries_eq]
  · simp only [State.cancelled]
    congr 1
    ext m
    simp only [Tbl.nth_tabulate, List.any_filter]
    rfl
  · exact h3.sublist (List.Sublist.map _ List.filter_sublist)
  · intro e he
    have := (h4 e (List.mem_filter.1 he).1).2
    show (s.master e.master).outst ≠ .none
    rw [this]
    simp

/-- The FAULT notices of a cancelled list, in list order (R77). -/
theorem State.noticeEntries_eq (reason : Reason) (r : RingNo) : ∀ (l : List ParkEntry) (s : State),
    s.noticeEntries reason r l =
      { s with
        hand :=
          { s.hand with
            notices := s.hand.notices ++
              l.map fun e => faultNotice reason e.master e.rq.addr (some e.window) (.ring r) } }
  | [], s => by simp [State.noticeEntries]
  | e :: l, s => by
    rw [State.noticeEntries, State.noticeEntries_eq reason r l]
    simp [State.giveNotice, State.setHand]

theorem ParkEntry.onRing_eq {r : RingNo} {p : ParkEntry → Bool}
    (h : ∀ e, p e = true ↔ ∃ side, e.target = .ring r side) : p = ParkEntry.onRing r := by
  funext e
  rw [Bool.eq_iff_iff, h]
  cases ht : e.target with
  | ring q side => simp [ParkEntry.onRing, ht]
  | cell c => simp [ParkEntry.onRing, ht]

end Sys2Proof.Machine
end

