-- ==== Sys2Proof/Tests/Slice0.lean ====
section
/-! SUPPORT. Our own tests: small checks of single commands against the spec's words, and for every statement of the
obligations file a concrete state that meets its hypotheses. -/

namespace Sys2Proof.Tests

open Sys2Proof Sys2Proof.Machine

/-! ### A part to test on -/

/-- A valid window entry from its fields: `low` is the ring or the first cell, `units` the size in 64 bytes, `kind` the code of
R206, `flags` the bits 28 and up of word 1. -/
def window (base low units kind flags reads writes last : Nat) : WindowWords :=
  #v[BitVec.ofNat 32 (base + low), BitVec.ofNat 32 (units + 0x2000000 + 0x4000000 * kind + flags),
    BitVec.ofNat 32 (reads + 0x10000 * writes), BitVec.ofNat 32 last]

/-- Two ordinary masters' ring: four slots of 64 bytes. -/
def config : RingConfig :=
  { slotSize := 64, slotCount := 4, overrun := .hold, underrun := .hold, stray := .fault, holdLimit := 10,
    fillWord := 0xA1B2C3D4, target := 100, tolerance := 10, confirm := 2, startAtRun := true }

/-- A RUNNING ring with nothing in it. -/
def runningRing : Ring := { Ring.reset with cfg := config, state := .running }

/-- A RUNNING part: window 0 PASS, 1 RING for ring 2 (master 4 writes, 5 reads), 2 CLAIM in WAIT mode with cells 10 to 25, 3 CLAIM in
NOWAIT mode with cells 30 to 45, 4 BLOCK, 5 RING for the notice ring 7, 6 PASS for privileged requests. -/
def demo : State :=
  { State.reset with
    part := .running, resetAsserted := false,
    header := { Header.reset with noticeRing := some 7, retryBudget := 2 },
    windows := Tbl.tabulate fun w => match w.val with
      | 0 => window 0x1000 0 64 0 0 0xE 0x2 0
      | 1 => window 0x8000 2 4 1 0 0x20 0x10 0
      | 2 => window 0xC000 10 1 2 0x40000000 0xE 0xE 0x50064
      | 3 => window 0xC100 30 1 2 0 0xE 0xE 0
      | 4 => window 0xD000 0 1 3 0 0 0 0
      | 5 => window 0x10000 7 4 1 0 0x40 0 0
      | 6 => window 0x20000 0 1 0 0x10000000 0xFFFE 0xFFFE 0
      | _ => Tbl.all 4 0,
    rings := ((Tbl.all 8 Ring.reset).put 2 runningRing).put 7 runningRing,
    tl := { Loader.reset with valid := true, code := .ok } }

/-- A read of `len` bytes at an address. -/
def rd (addr len : Nat) : Request :=
  { priv := false, fetch := false, dir := .read, addr := BitVec.ofNat 32 addr, len := len, data := [] }

/-- A write of `len` bytes 5A at an address. -/
def wr (addr len : Nat) : Request :=
  { priv := false, fetch := false, dir := .write, addr := BitVec.ofNat 32 addr, len := len,
    data := List.replicate len 0x5A }

/-- `s` with a request of master `m` in some phase. -/
def phase (s : State) (m : MasterNo) (o : Outstanding) : State := s.setMaster m { s.master m with outst := o }

/-- `s` with a request of master `m` accepted. -/
def asks (s : State) (m : MasterNo) (rq : Request) : State := phase s m (.admitting rq)

/-- `s` with ring 2 changed. -/
def ring2 (f : Ring → Ring) (s : State) : State := s.setRing 2 (f (s.ring 2))

/-- An entry of the pool for master `m` in place `i`, with this target, first arrival number and remaining time. -/
def waiter (i : EntryNo) (m : MasterNo) (rq : Request) (w : WindowNo) (t : Target) (n : Nat)
    (left : Option (BitVec 16)) : ParkEntry :=
  { slot := i, master := m, rq := rq, window := w, target := t, cause := .claim, seq := BitVec.ofNat 32 n, order := n,
    remaining := left }

/-- `s` with this entry at the tail of the pool list and its master PARKED. -/
def parks (e : ParkEntry) (s : State) : State :=
  phase (s.setHp { s.hp with list := s.hp.list ++ [e], order := max s.hp.order (e.order + 1) }) e.master (.parked e.rq)

/-- `s` with no window valid, so that no ring is bound. -/
def unbound (s : State) : State := { s with windows := Tbl.all 32 (Tbl.all 4 0) }

/-- `s` with cell `c` owned by `m`. -/
def owned (c : CellNo) (m : MasterNo) (gen : BitVec 8) (lease : Option (BitVec 16)) (s : State) : State :=
  s.setCell c { owner := some m, gen := gen, lease := lease, lapsed := none }

/-- `s` with a full pool: masters 8 to 15 wait for cell 10, which master 1 owns. -/
def full (s : State) : State :=
  (List.finRange 8).foldl
    (fun t i => parks (waiter i (Fin.ofNat 16 (i.val + 8)) (rd 0xC000 4) 2 (.cell 10) i.val none) t)
    (owned 10 1 1 none s)

/-- The state after a command that answers one. -/
def after (c : Instr) (s : State) : Option State :=
  match exec c s with
  | .next t => some t
  | .fault _ => none
  | .refused _ => none

/-- What a command drives on the links. -/
def drives (c : Instr) (s : State) : Option (List Output) := (after c s).map (·.out)

/-- The status and the data of the response that a command leaves. -/
def responds (c : Instr) (s : State) : Option (Status × List Byte) :=
  (after c s).bind fun t => t.ml.response.map fun r => (r.status, r.data)

/-- Master `m`'s 64-byte PASS read, as a queue entry. -/
def passRead (m : MasterNo) : QueueEntry := forwarded m (rd 0x1000 64) (.pass (some 0))

/-- A notice write, as a queue entry. -/
def noticeJoin : QueueEntry :=
  { source := .noticeWriter, purpose := .notice 7, dir := .write, addr := 0x10000, len := 64, data := List.replicate 64 1 }

/-- A FAULT record of this number. -/
def record (seq : Nat) : NoticeRecord :=
  { notice := faultNotice .access 2 0x9000 none .none, seq := BitVec.ofNat 16 seq, stamp := 0, lost := 0 }

/-- `s` with master 3's read in flight. -/
def flying (tag : BitVec 4) (retries : BitVec 3) (left : BitVec 16) (queue : List QueueEntry) (s : State) : State :=
  { s with dn := { queue := queue, link := .issued { entry := passRead 3, tag := tag, retries := retries, timer := left }, tag := 0 } }

/-- A 16-byte access of ring 2 at one of its cursors' slots, by master 4 or 5. -/
def access (side : Side) : QueueEntry :=
  match side with
  | .producer => forwarded 4 (wr 0x8030 16) (.ring 2 .producer 1)
  | .consumer => forwarded 5 (rd 0x8030 16) (.ring 2 .consumer 1)

/-- `s` with that access in flight, its lane BUSY, and its result waiting for RT. -/
def completing (ending : Ending) (side : Side) (s : State) : State :=
  let s1 : State :=
    { ring2 (fun k => k.setLane side (.busy (Source.masterNo (access side).source) false)) s with
      hand := { s.hand with results := [{ entry := access side, ending := ending }] } }
  match side with
  | .producer => phase s1 4 (.inFlight (wr 0x8030 16))
  | .consumer => phase s1 5 (.inFlight (rd 0x8030 16))

/-- `s` with a request of master `m` woken for a direction of ring 2, the lane reserved for it. -/
def woken (m : MasterNo) (rq : Request) (side : Side) (s : State) : State :=
  phase (ring2 (fun k => k.setLane side (.reserved m)) s) m
    (.laneHeld rq { ring := 2, side := side, window := 1, seq := 3, order := 3, remaining := some 7 })

/-- `s` with record 300 in flight to the notice ring and its result waiting for NW. -/
def writing (ending : Ending) (found : Option Bool) (s : State) : State :=
  { s.setRing 7 { s.ring 7 with producer := .busy 0 false } with
    nw := { NoticeWriter.reset with writer := .writing (record 300) },
    hand := { s.hand with nwResult := some { ring := 7, ending := ending, detached := found } } }

/-- `s` with a commit of ring 2 waiting for CM, whose cadence state is `k`. -/
def committing (k : Cadence) (s : State) : State :=
  { s.setCad 2 k with hand := { s.hand with commits := [{ ring := 2, master := 4, addr := 0x8000 }] } }

/-- A part in LOADING for a LOAD of 0x41000, with the result of read `n` waiting. -/
def loading (n : Nat) (ending : Ending) : State :=
  { demo with
    part := .loading,
    tl := { Loader.reset with load := some { origin := .command, addr := 0x41000, reads := n, staging := [] } },
    ml := { response := none, long := some { command := .load, frame := 41 }, frame := 42 },
    hand :=
      { demo.hand with
        results :=
          [{ entry := { source := .tableLoader, purpose := .table, dir := .read,
                        addr := 0x41000 + BitVec.ofNat 32 (64 * n), len := 64, data := [] },
             ending := ending }] } }

/-! ### What is well formed -/

theorem test_wf_accepts : (wr 0x8000 16).wf = true ∧ (rd 0x803C 4).wf = true ∧ (rd 0xFFFFFFC0 64).wf = true := by decide
theorem test_wf_refuses_unaligned_address : (rd 0x8002 4).wf = false := by decide
theorem test_wf_refuses_odd_length : (rd 0x8000 6).wf = false := by decide
theorem test_wf_refuses_length_zero : (rd 0x8000 0).wf = false := by decide
theorem test_wf_refuses_crossing : (rd 0x803C 8).wf = false := by decide
theorem test_wf_refuses_write_without_its_data : ({ wr 0x8000 8 with data := [] } : Request).wf = false := by decide
theorem test_wf_refuses_read_with_data : ({ rd 0x8000 4 with data := [0, 0, 0, 0] } : Request).wf = false := by decide
theorem test_wf_refuses_master_zero :
    (Instr.replay 0).wf = false ∧ (Instr.passResult 0).wf = false ∧ (Instr.queueJoin (.master 0)).wf = false ∧
      (Instr.dropOwnerships 0 5).wf = false ∧ (Instr.queueJoin .tableLoader).wf = true := by decide
theorem test_wf_refuses_read_data_of_no_request :
    (Instr.downstreamDone 3 [1, 2, 3]).wf = false ∧ (Instr.downstreamDone 3 (List.replicate 68 0)).wf = false ∧
      (Instr.downstreamDone 3 (List.replicate 64 0)).wf = true := by decide
theorem test_wf_refuses_well_formed_frame_as_malformed :
    (Instr.commandFrameMalformed 0x17 [0, 0x10, 4, 0]).wf = false ∧ (Instr.commandFrameMalformed 0x80 [1]).wf = false ∧
      (Instr.commandFrameMalformed 0x17 [0, 0x10, 4]).wf = true ∧ (Instr.commandFrameMalformed 0x19 []).wf = true := by decide

/-! ### Frames and layouts, from the bytes of R205 to R208 -/

def straps0 : Straps := { loadOnReset := false, tablePage := 0 }

theorem test_frames_without_arguments :
    decodeFrame straps0 [0x01] = some .status ∧ decodeFrame straps0 [0x02] = some .readHeader ∧
      decodeFrame straps0 [0x10] = some .readPool ∧ decodeFrame straps0 [0x11] = some .takeNotice ∧
      decodeFrame straps0 [0x13] = some .clearStall ∧ decodeFrame straps0 [0x14] = some .clearLost ∧
      decodeFrame straps0 [0x15] = some .stop ∧ decodeFrame straps0 [0x16] = some .start ∧
      decodeFrame straps0 [0x18] = some (.reset straps0) ∧ decodeFrame straps0 [0x80, 7, 7] = some (.poll 2) := by decide
theorem test_frames_with_numbers :
    decodeFrame straps0 [0x04, 50] = some (.readWindow 50) ∧ decodeFrame straps0 [0x06, 2] = some (.readRing 2) ∧
      decodeFrame straps0 [0x08, 1] = some (.ringStart 1) ∧ decodeFrame straps0 [0x09, 1] = some (.ringStop 1) ∧
      decodeFrame straps0 [0x0A, 43] = some (.readCell 43) ∧ decodeFrame straps0 [0x0B, 43] = some (.freeCell 43) ∧
      decodeFrame straps0 [0x0C, 9] = some (.readMaster 9) ∧ decodeFrame straps0 [0x0D, 12, 3] = some (.setPriority 12 3) ∧
      decodeFrame straps0 [0x0E, 9] = some (.dropMaster 9) ∧ decodeFrame straps0 [0x0F, 9] = some (.reopenMaster 9) ∧
      decodeFrame straps0 [0x12, 0x77] = some (.setMask 0x77) := by decide
/-- LOAD 0x41000, least significant byte first. -/
theorem test_frame_load : decodeFrame straps0 [0x17, 0x00, 0x10, 0x04, 0x00] = some (.load 0x41000) := by decide
/-- Window 4 as the valid CLAIM entry of 1.7: base 0x20101100, size 64, first cell 16, NOWAIT. -/
theorem test_frame_write_window :
    decodeFrame straps0
        [0x05, 4, 0x10, 0x11, 0x10, 0x20, 0x01, 0x00, 0x00, 0x0A, 0x32, 0x00, 0x32, 0x00, 0, 0, 0, 0] =
      some (.writeWindow 4 #v[0x20101110, 0x0A000001, 0x00320032, 0]) := by decide
/-- A ring record of slot size 256, 16 slots, REFUSE, FILL, confirm count 1. -/
theorem test_frame_write_ring :
    decodeFrame straps0 ([0x07, 2, 3, 0, 16, 0, 9, 1, 0, 0] ++ List.replicate 24 0) =
      some (.writeRing 2 #v[0x00100003, 0x109, 0, 0, 0, 0, 0, 0]) := by decide
theorem test_frame_write_header :
    decodeFrame straps0 ([0x03, 1, 0xFF, 16, 0] ++ List.replicate 52 0) =
      some (.writeHeader #v[0x0010FF01, 0, 0, 0, 0, 0, 0, 0, 0, 0, 0, 0, 0, 0]) := by decide
theorem test_frames_malformed :
    decodeFrame straps0 [0x00] = some (.commandFrameMalformed 0 []) ∧
      decodeFrame straps0 [0x19, 1] = some (.commandFrameMalformed 0x19 [1]) ∧
      decodeFrame straps0 [0x01, 1] = some (.commandFrameMalformed 1 [1]) ∧ decodeFrame straps0 [] = none := by decide
/-- Each byte most significant bit first; the two bits of an incomplete byte are dropped (R188, R205). -/
theorem test_bits_of_a_transaction :
    decodeTransaction straps0
        [false, false, false, false, true, false, true, false, false, false, true, false, true, false, true, true,
          true, true] =
      some (.readCell 43) := by decide
theorem test_table_words_spell_nothing : decodeTableWord 0 0 = none ∧ decodeTableWord 8 0x80 = none := by decide

/-- The window entry of the frame above, field by field. -/
theorem test_window_layout :
    let w : WindowWords := #v[0x20101110, 0x0A000001, 0x00320032, 0]
    winValid w = true ∧ winKind w = .claim ∧ winBase w = 0x20101100 ∧ winSize w = 64 ∧ winLow w = 16 ∧ winWait w = false ∧
      winReads w 5 = true ∧ winReads w 2 = false ∧ winWrites w 4 = true ∧ winWellFormed w = true := by decide
theorem test_window_ill_formed :
    winWellFormed (window 0x1000 1 64 0 0 0xE 2 0) = false ∧ winWellFormed (window 0x1000 0 64 0 0 0xF 2 0) = false ∧
      winWellFormed (window 0x1000 0 0 0 0 0xE 2 0) = false ∧ winWellFormed (window 0xC000 50 1 2 0 0xE 0xE 0) = false ∧
      winWellFormed (window 0xFFFFFFC0 0 2 0 0 0xE 2 0) = false ∧ winWellFormed (window 0xFFFFFFC0 0 1 0 0 0xE 2 0) = true := by
  decide
theorem test_ring_record_layout :
    decodeRingConfig #v[0x00100003, 0x109, 0, 0, 0, 0, 0, 0] =
      some { RingConfig.unconfigured with
              slotSize := 256, slotCount := 16, overrun := .refuse, underrun := .fill, confirm := 1 } ∧
      decodeRingConfig #v[0x00100006, 0x109, 0, 0, 0, 0, 0, 0] = none ∧
      decodeRingConfig #v[0x00100003, 0x109, 0, 0, 0x00640064, 0, 0, 0] = none := by decide
/-- Owner in bits 3:0, generation in bits 15:8, waited flag in bit 31 (R207). -/
theorem test_reply_word : replyWord (some 4) 2 true = 0x80000204 ∧ replyWord (some 1) 1 false = 0x101 := by decide
/-- A FAULT ACCESS notice in the words of R207, sequence 300, lost count 1. -/
theorem test_notice_record_layout :
    recordWords
        { notice := faultNotice .access 4 0x20000080 (some 0) .none, seq := 300, stamp := 77, lost := 1 } =
      [0x012C0701, 77, 0x00FF0004, 0x20000080, 0x00010001, 0, 0] ++ List.replicate 9 0 := by decide
/-- The balance word of 11.6.1. -/
theorem test_balance_word :
    wordSum [0x31200001, 0x0400A3F2, 0x9C7E11D0, 0x2B0F6E48, 0x0351DBF5] = 0 := by decide
/-- The classes of 5.8: target 1000, tolerance 100. -/
theorem test_interval_classes :
    let c : RingConfig := { config with target := 1000, tolerance := 100 }
    intervalClass c 900 = .on ∧ intervalClass c 1100 = .on ∧ intervalClass c 899 = .fast ∧ intervalClass c 1101 = .slow := by
  decide

/-! ### One step of each command, against the rules and the worked sequences -/

theorem test_upstream_request_accepted :
    (after (.upstreamRequest 4 (wr 0x8000 16)) demo).map (fun t => (t.master 4).outst) =
      some (.admitting (wr 0x8000 16)) := by decide
theorem test_upstream_request_ill_shaped : after (.upstreamRequest 4 (rd 0x8002 4)) demo = none := by decide
/-- Row b of 1.7: not in the write set. -/
theorem test_admission_access :
    (after (.admission 2) (asks demo 2 (wr 0x1000 16))).map (fun t => (t.out, t.hand.notices)) =
      some ([.answer 2 (.fault .access)], [faultNotice .access 2 0x1000 (some 0) .none]) := by decide
/-- Row 1 of 11.3: a full ring under OVERWRITE drops slot RI = 1 at 0x8040, part read. -/
theorem test_admission_overwrites :
    (after (.admission 4)
        (asks (ring2 (fun k => { k with cfg := { config with overrun := .overwrite }, wi := 1, ri := 1, ro := 16, fill := 4 })
          demo) 4 (wr 0x8040 64))).map (fun t => ((t.ring 2).ri, (t.ring 2).ro, (t.ring 2).fill, t.hand.notices)) =
      some (2, 0, 3, [{ kind := .drop, master := 4, window := some 1, subject := .ring 2, reason := none,
                        addr := some 0x8040, detail := .drop true }]) := by decide
/-- Row 5 of 11.1: the replay takes the reserved lane. -/
theorem test_replay_forwarded :
    (after (.replay 4) (woken 4 (wr 0x8000 16) .producer demo)).map (fun t => ((t.ring 2).producer, t.hand.joins.length)) =
      some (.busy 4 false, 1) := by decide
theorem test_replay_after_stop :
    (after (.replay 4) { woken 4 (wr 0x8000 16) .producer demo with part := .halted }).map
        (fun t => (t.out, (t.ring 2).producer)) = some ([.answer 4 (.fault .notReady)], .free) := by decide
/-- The first row of 7.9: issued at once with the tag counter's value. -/
theorem test_queue_join_issues :
    (after (.queueJoin (.master 3))
        (phase { demo with dn := { demo.dn with tag := 5 }, hand := { demo.hand with joins := [passRead 3] } } 3
          (.queued (rd 0x1000 64)))).map (fun t => (t.out, t.dn.tag, (t.master 3).outst)) =
      some ([.present 5 .read 0x1000 64 []], 6, .inFlight (rd 0x1000 64)) := by decide
/-- Time 35 of 7.9: the notice writer at internal priority 1 beats master 12 at priority 0. -/
theorem test_done_lets_the_arbiter_choose :
    drives (.downstreamDone 6 (List.replicate 64 7)) (flying 6 0 20 [passRead 12, noticeJoin]
        { demo with header := { demo.header with internalPrio := 1 } }) =
      some [.present 0 .write 0x10000 64 (List.replicate 64 1)] := by decide
theorem test_done_of_another_tag : drives (.downstreamDone 4 []) (flying 5 1 20 [passRead 12] demo) = some [] := by decide
/-- Time 10 of 7.9: a RETRY below the budget of 2. -/
theorem test_retry_reissues :
    (after (.downstreamRetry 5) (flying 5 1 20 [passRead 12] demo)).map (fun t => (t.out, t.dn.link)) =
      some ([.present 5 .read 0x1000 64 []],
        .issued { entry := passRead 3, tag := 5, retries := 2, timer := 65535 }) := by decide
/-- Time 30 of 7.9: a RETRY at the budget is a FAULT. -/
theorem test_retry_beyond_budget :
    (after (.downstreamRetry 5) (flying 5 2 20 [] demo)).map (fun t => (t.hand.results, t.dn.link)) =
      some ([{ entry := passRead 3, ending := .fault }], .idle) := by decide
theorem test_downstream_fault :
    (after (.downstreamFault 5) (flying 5 0 20 [] demo)).map (·.hand.results) =
      some [{ entry := passRead 3, ending := .fault }] := by decide
theorem test_response_timeout :
    (after .responseTimeout (flying 5 0 0 [] demo)).map (·.hand.results) =
        some [{ entry := passRead 3, ending := .timeout }] ∧
      (after .responseTimeout (flying 5 0 1 [] demo)).map (·.hand.results) = some [] := by decide
/-- The last paragraph of 7.9: work that waits behind SETTLING goes out with tag 0. -/
theorem test_settling_end :
    drives .settlingEnd { demo with dn := { queue := [passRead 3], link := .settling 8 0, tag := 0 } } =
      some [.present 0 .read 0x1000 64 []] := by decide
theorem test_pass_result :
    drives (.passResult 3)
        (phase { demo with hand := { demo.hand with results := [{ entry := passRead 3, ending := .timeout }] } } 3
          (.inFlight (rd 0x1000 64))) = some [.answer 3 (.fault .downTimeout)] := by decide
/-- 2.10: WO reaches the slot size and the slot is committed. -/
theorem test_producer_done_commits :
    (after (.ringProducerDone 2) (completing (.done []) .producer
        (ring2 (fun k => { k with wo := 48 }) demo))).map
        (fun t => ((t.ring 2).wi, (t.ring 2).wo, (t.ring 2).fill, (t.ring 2).commits, t.hand.commits)) =
      some (1, 0, 1, 1, [{ ring := 2, master := 4, addr := 0x8000 }]) := by decide
/-- 2.10: RO reaches the slot size and the slot is released. -/
theorem test_consumer_done_releases :
    (after (.ringConsumerDone 2) (completing (.done (List.replicate 16 9)) .consumer
        (ring2 (fun k => { k with wi := 1, ro := 48, fill := 1 }) demo))).map
        (fun t => ((t.ring 2).ri, (t.ring 2).ro, (t.ring 2).fill, (t.ring 2).releases, t.out)) =
      some (1, 0, 0, 1, [.answer 5 (.done (List.replicate 16 9))]) := by decide
theorem test_ring_access_failed :
    (after (.ringAccessFailed 2 .producer) (completing .fault .producer (ring2 (fun k => { k with wo := 48 }) demo))).map
        (fun t => ((t.ring 2).wo, (t.ring 2).producer, t.out)) =
      some (48, .free, [.answer 4 (.fault .downFault)]) := by decide
/-- Row 3 of 11.4: a failed notice write puts the record back and stalls the writer. -/
theorem test_notice_write_fails :
    (after .noticeWriteResult (writing .fault none demo)).map (fun t => (t.nw.queue, t.nw.writer)) =
      some ([record 300], .stalled) := by decide
/-- 2480 in 5.8: the second ON interval confirms the class. -/
theorem test_cadence_commit_confirms :
    (after (.cadenceCommit 2) (committing
        { Cadence.initial with candidate := some .on, run := 1, elapsed := some 98, last := some 100 } demo)).map
        (fun t => ((t.cad 2).cls, (t.cad 2).last, (t.cad 2).watch, t.hand.notices.map (·.detail))) =
      some (.on, some 98, some 110, [.cadence .unknown .on 98 false]) := by decide
/-- 6900 in 5.8: SLOW at once, with the elapsed time as the interval. -/
theorem test_watch_expiry :
    (after (.watchExpiry 2) (demo.setCad 2
        { cls := .fast, candidate := none, run := 0, elapsed := some 110, last := some 80, watch := some 0 })).map
        (fun t => ((t.cad 2).cls, (t.cad 2).watch, t.hand.notices.map (·.detail))) =
      some (.slow, none, [.cadence .fast .slow 110 true]) := by decide
theorem test_tick :
    (after .tick (parks (waiter 0 1 (rd 0xC000 4) 2 (.cell 10) 0 (some 5)) { demo with cu := { divider := 999, msDue := 0 } })).map
        (fun t => (t.timestamp, t.cu, t.hp.list.map (·.remaining))) =
      some (1, { divider := 0, msDue := 1 }, [some 4]) := by decide
theorem test_tick_under_reset : (after .tick State.reset).map (·.timestamp) = some 0 := by decide
/-- 500 in 3.8. -/
theorem test_ring_park_expiry :
    drives (.ringParkExpiry 0) (parks (waiter 0 5 (rd 0x8000 64) 1 (.ring 2 .consumer) 40 (some 0)) demo) =
      some [.answer 5 (.fault .holdExpired)] := by decide
/-- 5800 in 11.2: owner 4, generation 2, waited flag set. -/
theorem test_claim_park_expiry :
    drives (.claimParkExpiry 1)
        (parks (waiter 1 3 (rd 0xC000 4) 2 (.cell 10) 21 (some 0)) (owned 10 4 2 (some 5) demo)) =
      some [.answer 3 (.done [4, 2, 0, 0x80])] := by decide
theorem test_millisecond_step :
    (after .millisecondStep { owned 10 4 2 (some 5) demo with cu := { divider := 0, msDue := 1 } }).map
        (fun t => ((t.cell 10).lease, t.cu.msDue)) = some (some 4, 0) := by decide
/-- 5000 in 11.2: the lease runs out under a waiter. -/
theorem test_lease_expiry :
    (after (.leaseExpiry 10)
        (parks (waiter 0 3 (rd 0xC000 4) 2 (.cell 10) 20 (some 500)) (owned 10 1 1 (some 0) demo))).map
        (fun t => (t.out, t.cell 10, t.hand.notices.map fun n => (n.kind, n.master, n.detail))) =
      some ([.answer 3 (.done [0, 0, 0, 0])], { owner := some 3, gen := 2, lease := some 5, lapsed := some 1 },
        [(.lease, 1, .generation 1)]) := by decide
/-- Step 5 of 8.7: the ninth record is lost but numbered. -/
theorem test_notice_lost :
    (after (.noticeHandoff 0)
        { demo with
          nw := { NoticeWriter.reset with queue := List.replicate 8 (record 100), seq := 108 },
          header := { demo.header with noticeRing := none },
          hand := { demo.hand with notices := [(record 0).notice] } }).map (fun t => (t.nw.seq, t.nw.lost, t.nw.queue.length)) =
      some (109, 1, 8) := by decide
/-- Step 3 of 8.7: a masked kind takes no number. -/
theorem test_notice_masked :
    (after (.noticeHandoff 0)
        { demo with
          nw := { NoticeWriter.reset with mask := 0x7E }, hand := { demo.hand with notices := [(record 0).notice] } }).map
        (fun t => (t.nw.seq, t.nw.queue, t.hand.notices)) = some (0, [], []) := by decide
/-- Step 8 of 9.7: read 5 fails. -/
theorem test_table_read_fault :
    (after .tableReadResult (loading 5 .fault)).map (fun t => (t.part, t.tl.code, t.tl.index, t.tl.load)) =
      some (.halted, .readFault, some 5, none) := by decide
/-- Step 8 of 9.7: read 5 of the image at 0x41000 lies at 0x41140. -/
theorem test_table_read_goes_on :
    (after .tableReadResult (loading 4 (.done (List.replicate 64 0)))).map
        (fun t => (t.tl.load.map (·.reads), t.hand.joins.map (·.addr))) = some (some 5, [0x41140]) := by decide
theorem test_run_entry_rings :
    (after .runEntryRings { ring2 (fun k => { k with state := .off, wi := 3, ri := 1, fill := 2, commits := 9 }) demo with
        hand := { demo.hand with runRings := true } }).map (fun t => (t.ring 2, (t.ring 0).state)) =
      some (runningRing, .off) := by decide
/-- R114: a ring with start-at-run clear loses its watch timer at the entry into RUNNING, and CM is told of no departure. -/
theorem test_run_entry_stops_watch :
    (after .runEntryRings { demo.setCad 0 { Cadence.initial with cls := .slow, watch := some 9 } with
        hand := { demo.hand with runRings := true } }).map (fun t => ((t.cad 0).cls, (t.cad 0).watch, t.hand.cadStop.nth 0)) =
      some (.slow, none, false) := by decide
theorem test_run_entry_notices :
    (after .runEntryNotices { demo with
        nw := { NoticeWriter.reset with queue := [record 300] }, hand := { demo.hand with runNotices := true } }).map
        (fun t => (t.nw.writer, t.hand.joins.map (·.addr))) = some (.writing (record 300), [0x10000]) := by decide
theorem test_stop_rings :
    (after .stopRings { ring2 (fun k => { k with wi := 1, fill := 1, producer := .busy 4 false }) demo with
        hand := { demo.hand with stopRings := true } }).map (fun t => ((t.ring 2).state, (t.ring 2).fill, (t.ring 2).producer)) =
      some (.off, 1, .busy 4 true) := by decide
theorem test_stop_pool :
    drives .stopPool { parks (waiter 0 5 (rd 0x8000 64) 1 (.ring 2 .consumer) 40 none) demo with
        hand := { demo.hand with stopPool := true } } = some [.answer 5 (.fault .stopped)] := by decide
theorem test_stop_cells :
    (after .stopCells { parks (waiter 0 3 (rd 0xC000 4) 2 (.cell 10) 40 none) (owned 10 1 6 none demo) with
        hand := { demo.hand with stopCells := true } }).map (fun t => (t.out, t.cell 10)) =
      some ([.answer 3 (.fault .stopped)], Cell.reset) := by decide
theorem test_stop_cadence :
    (after (.stopCadence 2) { demo.setCad 2 { Cadence.initial with cls := .slow, watch := some 9 } with
        hand := { demo.hand with cadStop := demo.hand.cadStop.put 2 true } }).map (fun t => ((t.cad 2).cls, (t.cad 2).watch)) =
      some (.slow, none) := by decide
theorem test_cadence_ring_start :
    (after (.cadenceRingStart 2) { demo.setCad 2 { Cadence.initial with cls := .slow, watch := some 9 } with
        hand := { demo.hand with cadStart := demo.hand.cadStart.put 2 true } }).map (fun t => t.cad 2) =
      some Cadence.initial := by decide
theorem test_pool_cancel_ring_stop :
    drives (.poolCancelRingStop 2) { parks (waiter 0 5 (rd 0x8000 64) 1 (.ring 2 .consumer) 40 none) demo with
        hand := { demo.hand with cancelStop := demo.hand.cancelStop.put 2 true } } =
      some [.answer 5 (.fault .ringOff)] := by decide
theorem test_pool_cancel_freeze :
    (after (.poolCancelFreeze 2) { parks (waiter 0 5 (rd 0x8000 64) 1 (.ring 2 .consumer) 40 none) demo with
        hand := { demo.hand with cancelFreeze := demo.hand.cancelFreeze.put 2 true } }).map (fun t => (t.out, t.hand.notices)) =
      some ([.answer 5 (.fault .ringFrozen)], [faultNotice .ringFrozen 5 0x8000 (some 1) (.ring 2)]) := by decide
/-- Step 2 of 6.6: the cell passes to the waiter, generation 5 to 6, with the dropped master lapsed. -/
theorem test_drop_ownerships :
    (after (.dropOwnerships 9 12)
        { parks (waiter 1 2 (rd 0xC008 4) 2 (.cell 12) 0 none) (owned 12 9 5 none demo) with
          hand := { demo.hand with drops := [(9, 12)] } }).map (fun t => (t.out, (t.cell 12).owner, (t.cell 12).gen, (t.cell 12).lapsed)) =
      some ([.answer 2 (.done [0, 0, 0, 0])], some 2, 6, some 9) := by decide
theorem test_header_copy :
    (after .headerCopy { demo with
        header := { demo.header with mask := 5, prios := (Tbl.all 16 0).put 3 2 },
        hand := { demo.hand with headerCopy := true } }).map (fun t => (t.nw.mask, (t.master 3).prio)) = some (5, 2) := by decide
theorem test_reset_n_assert :
    (after .resetNAssert (asks demo 4 (wr 0x8000 16))).map (fun t => (t.part, (t.master 4).outst, t.out, t.ml.frame)) =
      some (.reset, .none, [], 1) := by decide
/-- Step 2 of 9.7: page 0x40 gives the table base 0x40000. -/
theorem test_reset_n_release_loads :
    (after (.resetNRelease { loadOnReset := true, tablePage := 0x40 }) State.reset).map
        (fun t => (t.part, t.cause, t.hand.joins.map (·.addr))) = some (.loading, .line, [0x40000]) := by decide
theorem test_reset_n_release_halts :
    (after (.resetNRelease straps0) State.reset).map (fun t => (t.part, t.resetAsserted, t.tl.code)) =
      some (.halted, false, .none) := by decide
theorem test_malformed_frame : responds (.commandFrameMalformed 0x19 []) demo = some (.badArg, []) := by decide
theorem test_malformed_frame_is_not_well_formed : after (.commandFrameMalformed 0x15 []) demo = none := by decide
/-- Steps 5 and 6 of 10.8. -/
theorem test_poll_after_link_refusal :
    (after (.poll 6) { demo with
        ml := { response := some { code := 1, frame := 42, status := .busy, refusal := true, data := [] },
                long := some { command := .load, frame := 41 }, frame := 43 } }).map (fun t => (t.out, t.ml.response)) =
      some ([.mdo [1, 42, 2, 1, 0, 0]],
        some { code := 0x17, frame := 41, status := .pending, refusal := false, data := [] }) := by decide
/-- MSEL may be released before the last byte of the record, and MDO carries 0 after it (R192, R208). -/
theorem test_poll_cut_short_or_run_over :
    let s : State := { demo with
      ml := { demo.ml with response := some { code := 4, frame := 9, status := .ok, refusal := false, data := [0xAA] } } }
    drives (.poll 2) s = some [.mdo [4, 9]] ∧ drives (.poll 9) s = some [.mdo [4, 9, 0, 0, 1, 0, 0xAA, 0, 0]] := by decide
theorem test_poll_of_an_empty_record : drives (.poll 6) demo = some [.mdo [0, 0, 0, 0, 0, 0]] := by decide
theorem test_status :
    (responds .status demo).map (fun x => x.2.take 8) = some [2, 0, 0, 0, 1, 1, 0xFF, 0] := by decide
/-- Step 5 of 10.8: a command is turned away while a LOAD is pending. -/
theorem test_status_while_loading :
    (after .status { demo with
        ml := { response := none, long := some { command := .load, frame := 41 }, frame := 42 } }).map (·.ml) =
      some { response := some { code := 1, frame := 42, status := .busy, refusal := true, data := [] },
             long := some { command := .load, frame := 41 }, frame := 43 } := by decide
theorem test_read_header :
    (responds .readHeader demo).map (fun x => x.2.take 18) =
      some [0x01, 0x00, 0x20, 0x31, 0, 0, 0, 0, 0, 7, 1, 0, 0x7F, 0, 2, 0, 0xFF, 0xFF] := by decide
theorem test_write_header :
    (after (.writeHeader #v[0x0010FF01, 0x0103017F, 50, 2, 0, 0, 0, 0, 0, 0, 0, 0, 0, 0]) { demo with part := .halted }).map
        (fun t => (t.header.policy, t.header.noticeRing, t.header.alertLevel, t.header.retryBudget)) =
      some (.closed, some 7, 1, 2) := by decide
theorem test_write_header_in_running : responds (.writeHeader (Tbl.all 14 0)) demo = some (.badState, []) := by decide
theorem test_read_window :
    responds (.readWindow 3) demo = some (.ok, [0x1E, 0xC1, 0, 0, 1, 0, 0, 0x0A, 0xE, 0, 0xE, 0, 0, 0, 0, 0]) := by decide
/-- Step 1 of 10.8. -/
theorem test_read_window_50 : responds (.readWindow 50) demo = some (.badArg, []) := by decide
/-- 1.7: the cells of the new entry overlap those of another CLAIM window. -/
theorem test_write_window_conflict :
    responds (.writeWindow 8 (window 0x30000 16 1 2 0 0xE 0xE 0)) demo = some (.conflict, []) := by decide
/-- 1.7: a cell of the old entry has an owner. -/
theorem test_write_window_busy :
    responds (.writeWindow 3 (window 0xC100 30 1 2 0 2 2 0)) (owned 31 1 1 none demo) = some (.busy, []) ∧
      responds (.writeWindow 3 (window 0xC100 30 1 2 0 2 2 0)) demo = some (.ok, []) := by decide
theorem test_read_ring :
    (responds (.readRing 2) (ring2 (fun k => { k with
        wi := 1, ri := 3, fill := 2, producer := .busy 4 true, consumer := .busy 5 false }) demo)).map (fun x => (x.2.drop 32).take 28) =
      some [1, 1, 0, 0, 1, 0, 3, 0, 0, 0, 0, 0, 2, 0, 0, 0, 2, 4, 1, 0, 2, 5, 0, 0, 0x40, 0x80, 0, 0] := by decide
theorem test_write_ring :
    responds (.writeRing 3 #v[0x00100003, 0x109, 0, 0, 0, 0, 0, 0]) demo = some (.ok, []) ∧
      responds (.writeRing 2 #v[0x00100003, 0x109, 0, 0, 0, 0, 0, 0]) demo = some (.badState, []) := by decide
/-- R114: WRITE_RING leaves the ring's watch timer absent, also before CM has taken the departure. -/
theorem test_write_ring_stops_watch :
    (after (.writeRing 3 #v[0x00100003, 0x109, 0, 0, 0, 0, 0, 0])
        (demo.setCad 3 { Cadence.initial with cls := .slow, watch := some 0 })).map (fun t => ((t.cad 3).cls, (t.cad 3).watch)) =
      some (.slow, none) := by decide
theorem test_ring_start :
    (after (.ringStart 2) (ring2 (fun k => { k with state := .frozen, wi := 1, wo := 16, fill := 1, strays := 1 }) demo)).map
        (fun t => (t.ring 2, t.hand.cadStart.nth 2)) = some (runningRing, true) := by decide
theorem test_ring_start_with_a_busy_lane :
    responds (.ringStart 2) (ring2 (fun k => { k with state := .off, producer := .busy 4 true }) demo) =
      some (.busy, []) := by decide
theorem test_ring_stop :
    (after (.ringStop 2) (ring2 (fun k => { k with fill := 1, consumer := .busy 5 false }) demo)).map
        (fun t => ((t.ring 2).state, (t.ring 2).fill, (t.ring 2).consumer, t.hand.cancelStop.nth 2)) =
      some (.off, 1, .busy 5 true, true) := by decide
/-- 1000 in 4.9: owner 5, generation 3, lapsed owner 4. -/
theorem test_read_cell :
    responds (.readCell 13) ((owned 13 5 3 (some 5) demo).setCell 13 { owner := some 5, gen := 3, lease := some 5, lapsed := some 4 }) =
      some (.ok, [13, 5, 3, 4, 5, 0, 0, 0x80, 2, 1, 0, 0, 0x0C, 0xC0, 0, 0]) := by decide
/-- 1000 in 4.9: FREE_CELL hands the cell to the waiter. -/
theorem test_free_cell :
    (after (.freeCell 13) (parks (waiter 0 3 (rd 0xC00C 4) 2 (.cell 13) 1 (some 1200)) (owned 13 1 2 (some 5) demo))).map
        (fun t => (t.out, t.cell 13)) =
      some ([.answer 3 (.done [0, 0, 0, 0])], { owner := some 3, gen := 3, lease := some 5, lapsed := some 1 }) := by decide
theorem test_read_master :
    (responds (.readMaster 3) (parks (waiter 1 3 (rd 0xC000 4) 2 (.cell 10) 0 none) (owned 10 1 1 none demo))).map
        (fun x => (x.2.take 12, x.2.length)) =
      some ([3, 0, 0, 2, 0, 4, 1, 0xFF, 0, 0xC0, 0, 0], 16) := by decide
theorem test_set_priority :
    (after (.setPriority 12 3) demo).map (fun t => (t.master 12).prio) = some 3 ∧
      responds (.setPriority 12 4) demo = some (.badArg, []) := by decide
/-- Step 1 of 6.6: the queued write is withdrawn and its lane freed. -/
theorem test_drop_master_queued :
    (after (.dropMaster 4)
        (phase { ring2 (fun k => { k with producer := .busy 4 false }) demo with
          dn := { queue := [forwarded 4 (wr 0x8000 16) (.ring 2 .producer 1)],
                  link := .issued { entry := passRead 3, tag := 0, retries := 0, timer := 9 }, tag := 1 } } 4
          (.queued (wr 0x8000 16)))).map
        (fun t => (t.out, t.dn.queue, (t.ring 2).producer, t.hand.notices.map (·.detail))) =
      some ([.answer 4 (.fault .dropped)], [], .free, [.fence .queued 0]) := by decide
theorem test_reopen_master : responds (.reopenMaster 9) demo = some (.badState, []) := by decide
theorem test_read_pool :
    responds .readPool (parks (waiter 1 5 (rd 0x8000 4) 1 (.ring 2 .consumer) 21 (some 700)) demo) =
      some (.ok, [1, 0, 0, 0, 0, 0, 0, 0, 1, 5, 0, 0, 0x00, 0x80, 0, 0, 4, 1, 2, 0x0E, 21, 0, 0, 0, 0xBC, 2, 0, 0x80]) := by
  decide
/-- Row 7 of 11.4: record 300 with lost count 1. -/
theorem test_take_notice :
    (responds .takeNotice { demo with nw := { NoticeWriter.reset with queue := [record 300], writer := .stalled, lost := 1 } }).map
        (fun x => (x.2.take 4, (x.2.drop 16).take 4, x.2.length)) =
      some ([1, 7, 0x2C, 1], [1, 0, 1, 0], 64) := by decide
theorem test_set_mask :
    (after (.setMask 0x77) demo).map (fun t => t.nw.mask) = some 0x77 ∧ responds (.setMask 0x80) demo = some (.badArg, []) := by
  decide
/-- Row 8 of 11.4: CLEAR_STALL lets the writer issue. -/
theorem test_clear_stall :
    (after .clearStall { demo with nw := { NoticeWriter.reset with queue := [record 301], writer := .stalled } }).map
        (fun t => (t.nw.queue, t.nw.writer)) = some ([], .writing (record 301)) := by decide
theorem test_clear_lost :
    (after .clearLost { demo with nw := { NoticeWriter.reset with lost := 3 } }).map (fun t => t.nw.lost) = some 0 := by
  decide
theorem test_stop :
    (after .stop demo).map (fun t => (t.part, t.hand.stopRings, t.hand.stopPool, t.hand.stopCells)) =
      some (.halted, true, true, true) := by decide
/-- Step 5 of 9.7: START is refused while table-valid is clear. -/
theorem test_start :
    responds .start { demo with part := .halted, tl := Loader.reset } = some (.badState, []) ∧
      (after .start { demo with part := .halted }).map (fun t => (t.part, t.hand.runRings)) = some (.running, true) := by decide
/-- Step 3 of 10.8. -/
theorem test_load :
    (after (.load 0x41000) { demo with part := .halted, ml := { response := none, long := none, frame := 41 } }).map
        (fun t => (t.part, t.ml.long, t.ml.frame)) = some (.loading, some { command := .load, frame := 41 }, 42) := by decide
theorem test_load_refused :
    responds (.load 0x41020) demo = some (.badArg, []) ∧ responds (.load 0xFFFFFD00) demo = some (.badArg, []) ∧
      responds (.load 0x41000) demo = some (.badState, []) := by decide
/-- The last paragraph of 7.9: a soft reset with a write in flight, 30 microseconds before its time runs out. -/
theorem test_reset :
    (after (.reset straps0) (phase (flying 8 0 30 [] demo) 3 (.inFlight (rd 0x1000 64)))).map
        (fun t => (t.out, t.dn.link, t.dn.tag, t.part, t.ml.long)) =
      some ([.answer 3 (.fault .reset)], .settling 8 30, 0, .reset, some { command := .reset, frame := 1 }) := by decide
/-- The soft reset ends: the cause is COMMAND and the pending RESET answers OK (R173, R193). -/
theorem test_reset_ends :
    (((after (.reset straps0) demo).bind fun u => match step u with
        | .next t => some (t.part, t.cause, t.ml)
        | .fault _ => none
        | .refused _ => none) =
      some (.halted, .command,
        { response := some { code := 0x18, frame := 1, status := .ok, refusal := false, data := [] }, long := none,
          frame := 2 })) := by decide
/-- A late DONE that carries no data is taken for the read in flight with its tag (R139, R149): the link is IDLE and the master is
answered as many bytes as it asked for. -/
theorem test_late_done_ends_the_read :
    (after (.downstreamDone 8 []) (flying 8 0 30 [] demo)).map
        (fun t => (t.dn.link, t.hand.results.map fun x => match x.ending with
          | .done data => data.length
          | .fault => 0
          | .timeout => 0)) = some (.idle, [64]) := by decide

theorem test_demo_table : demo.tableLaw := by
  unfold State.tableLaw
  decide

theorem test_demo_rings : demo.ringLaws := by
  unfold State.ringLaws Ring.law
  decide

/-! ### The hypotheses of every statement are met -/

/-- `s` with one command waiting. -/
def queued (c : Instr) (s : State) : State := { s with pending := [c] }

theorem witness_StepRunsFrontCommand :
    (queued .tick demo).pending = .tick :: [] ∧ demo.pending = [] ∧ ∀ p, demo.ml.long = some p → p.command = .load :=
  ⟨by decide, by decide, nofun⟩

theorem witness_CommandsLeaveTheQueueAlone : ∃ t, exec .stop (queued .tick demo) = .next t := ⟨_, rfl⟩

theorem witness_WellFormedCommandsComplete :
    (Instr.downstreamDone 5 (List.replicate 64 0)).wf = true ∧ (rd 0x803C 8).wf = false ∧
      frameMalformed 0x17 [0, 0x10, 4, 0] = false := by decide

theorem witness_FramesReadBack :
    (Instr.writeWindow 4 (window 0xC000 10 1 2 0 0xE 0xE 0)).wf = true ∧
      (encodeFrame (.writeWindow 4 (window 0xC000 10 1 2 0 0xE 0xE 0))).isSome = true ∧
      encodeFrame (.reset straps0) = some [0x18] ∧ Config.pollCode = 0x80 ∧
      (Instr.commandFrameMalformed 0xFF [1, 2]).wf = true ∧
      encodeFrame (.commandFrameMalformed 0xFF [1, 2]) = some [0xFF, 1, 2] := by decide

theorem witness_RingLawsKept :
    demo.ringLaws ∧ ∃ t, step (queued (.ringStop 2) demo) = .next t := ⟨test_demo_rings, _, rfl⟩

/-- With nobody woken, the law of the pool list speaks of the entries alone. -/
theorem orderLaw_of_none_woken {s : State} (sorted : s.hp.list.Pairwise fun a b => a.order < b.order)
    (below : ∀ e ∈ s.hp.list, e.order < s.hp.order) (none_woken : ∀ m, (s.master m).outst.phase ≠ .laneHeld) : s.orderLaw := by
  have absent : ∀ m k, ¬ s.wokenWith m k := by
    rintro m k ⟨rq, h⟩
    exact none_woken m (by rw [h]; rfl)
  exact ⟨sorted, below, fun m k h => (absent m k h).elim, fun m q k j _ h _ => (absent m k h).elim⟩

theorem witness_WaiterAndOwnerLawsKept :
    (asks (full demo) 1 (wr 0xC000 4)).poolLaw ∧ (asks (full demo) 1 (wr 0xC000 4)).cellLaw ∧
      ∃ t, step (queued (.admission 1) (asks (full demo) 1 (wr 0xC000 4))) = .next t := by
  unfold State.poolLaw State.cellLaw State.waiterLaw
  exact ⟨⟨by decide, orderLaw_of_none_woken (by decide) (by decide) (by decide)⟩, by decide, _, rfl⟩

theorem witness_QueueLawsKept :
    let s : State := { flying 5 0 9 [passRead 2] (writing (.done []) (some false) demo) with
      nw := { NoticeWriter.reset with queue := List.replicate 7 (record 1), writer := .writing (record 0) } }
    s.noticeLaw ∧ s.linkLaw ∧ demo.linkLaw ∧ ∃ t, step (queued .noticeWriteResult s) = .next t := by
  unfold State.noticeLaw State.linkLaw
  exact ⟨by decide, by decide, by decide, _, rfl⟩

/-- A part in a soft reset. -/
def resetting : State :=
  { State.reset with
    resetAsserted := false, ml := { response := none, long := some { command := .reset, frame := 4 }, frame := 5 } }

theorem witness_PartLawKept :
    (loading 12 .fault).partLaw ∧ demo.partLaw ∧ resetting.partLaw ∧
      (∃ t, step (queued .tableReadResult (loading 12 .fault)) = .next t) ∧ ∃ t, step resetting = .next t := by
  refine ⟨⟨?_, by decide, ?_⟩, ⟨?_, by decide, nofun⟩, ⟨?_, by decide, ?_⟩, ⟨_, rfl⟩, _, rfl⟩
  · exact ⟨nofun, fun h => by rcases h with h | ⟨p, ⟨⟩, h⟩ <;> cases h⟩
  · rintro p ⟨⟩
    exact ⟨rfl, fun _ => ⟨_, rfl, rfl⟩⟩
  · exact ⟨nofun, fun h => by rcases h with h | ⟨p, h, _⟩ <;> cases h⟩
  · exact ⟨fun _ => .inr ⟨_, rfl, rfl⟩, fun _ => rfl⟩
  · rintro p ⟨⟩
    exact ⟨rfl, nofun⟩

theorem witness_TableConsistencyKept :
    demo.tableLaw ∧ ∃ t, step (queued (.writeWindow 9 (window 0x30000 50 1 2 0 2 2 0)) demo) = .next t :=
  ⟨test_demo_table, _, rfl⟩

theorem witness_EveryRequestAnsweredOnce :
    (∃ t, exec (.admission 2) (asks demo 2 (wr 0x1000 16)) = .next t ∧ (t.master 2).outst = .none) ∧
      ((asks demo 2 (wr 0x1000 16)).master 2).outst ≠ .none ∧
      (∃ t, exec (.upstreamRequest 4 (wr 0x8000 16)) demo = .next t ∧ (t.master 4).outst ≠ .none) ∧
      (demo.master 4).outst = .none ∧ Instr.admission 2 ≠ .resetNAssert :=
  ⟨⟨_, rfl, by decide⟩, by decide, ⟨_, rfl, by decide⟩, by decide, by decide⟩

theorem witness_TableChangesOnlyByItsCommands :
    (∃ t, exec (.ringStart 2) demo = .next t) ∧ Instr.ringStart 2 ≠ .tableReadResult ∧
      Instr.ringStart 2 ≠ .resetNAssert ∧ (∀ st, Instr.ringStart 2 ≠ .reset st) ∧
      (∀ b e, Instr.ringStart 2 ≠ .writeWindow b e) ∧ (∀ w, Instr.ringStart 2 ≠ .writeHeader w) ∧
      ∀ b rec, Instr.ringStart 2 ≠ .writeRing b rec := ⟨⟨_, rfl⟩, nofun, nofun, nofun, nofun, nofun, nofun⟩

theorem witness_MasterRecordsChangeOnlyByTheirCommands :
    (∃ t, exec (.admission 2) (asks demo 2 (wr 0x1000 16)) = .next t) ∧ Instr.admission 2 ≠ .resetNAssert ∧
      (∀ st, Instr.admission 2 ≠ .reset st) ∧ (∀ b p, Instr.admission 2 ≠ .setPriority b p) ∧
      Instr.admission 2 ≠ .headerCopy ∧ Instr.admission 2 ≠ .tableReadResult ∧
      (∀ b, Instr.admission 2 ≠ .dropMaster b) ∧ ∀ b, Instr.admission 2 ≠ .reopenMaster b :=
  ⟨⟨_, rfl⟩, nofun, nofun, nofun, nofun, nofun, nofun, nofun⟩

theorem witness_TimeAndStartUpStateChangeOnlyByTheirCommands :
    (∃ t, exec .stop demo = .next t) ∧ (∀ st, Instr.stop ≠ .reset st) ∧ Instr.stop ≠ .tick ∧ Instr.stop ≠ .resetNAssert ∧
      (∀ st, Instr.stop ≠ .resetNRelease st) ∧ Instr.stop ≠ .tableReadResult ∧
      (∃ t, step demo = .next t) ∧ demo.pending = [] ∧ ∀ p, demo.ml.long = some p → p.command = .load :=
  ⟨⟨_, rfl⟩, nofun, nofun, nofun, nofun, nofun, ⟨_, rfl⟩, rfl, nofun⟩

/-! The upstream port. -/

theorem witness_RequestAcceptedOrHeldOff :
    (wr 0x8000 64).wf = true ∧ (demo.master 0).outst = .none ∧ (demo.master 15).outst = .none ∧ demo.part ≠ .reset ∧
      ((asks demo 15 (rd 0x1000 4)).master 15).outst ≠ .none ∧ State.reset.part = .reset := by decide

theorem witness_AdmissionFaultsInOrder :
    ((asks { demo with part := .halted } 4 (rd 0x1000 4)).master 4).outst = .admitting (rd 0x1000 4) ∧
    (asks { demo with part := .halted } 4 (rd 0x1000 4)).part ≠ .running ∧
    ((asks demo 0 (rd 0x1000 4)).master 0).outst = .admitting (rd 0x1000 4) ∧ (asks demo 0 (rd 0x1000 4)).part = .running ∧
    ((asks (demo.setMaster 4 { Master.reset with state := .fenced }) 4 (rd 0x1000 4)).master 4).state = .fenced ∧
    (∀ w, winValid ((asks demo 1 (rd 0x2000 4)).window w) = true →
      winHolds ((asks demo 1 (rd 0x2000 4)).window w) (rd 0x2000 4).addr = false) ∧ demo.header.policy = .closed ∧
    (asks demo 1 (rd 0x2003C 4)).findWindow (rd 0x2003C 4).addr = some 6 ∧ winPriv (demo.window 6) = true ∧
    (rd 0x2003C 4).priv = false ∧
    (asks demo 5 { rd 0x8000 4 with fetch := true }).findWindow 0x8000 = some 1 ∧ winKind (demo.window 1) = .ring ∧
    winKind (demo.window 0) = .pass ∧ winFetch (demo.window 0) = false := by decide

theorem witness_AdmissionFaultsInOrder_windows :
    (asks demo 1 (rd 0xD000 4)).reaches 1 (rd 0xD000 4) 4 ∧ winKind (demo.window 4) = .block ∧
    (asks demo 2 (wr 0x1FFC 4)).reaches 2 (wr 0x1FFC 4) 0 ∧ winKind (demo.window 0) = .pass ∧
    winMember (demo.window 0) .write 2 = false := by
  unfold State.reaches
  decide

theorem witness_PassRequestsForwarded :
    (asks demo 1 (wr 0x1000 4)).reaches 1 (wr 0x1000 4) 0 ∧ winMember (demo.window 0) .write 1 = true ∧
    ((asks demo 1 (wr 0x1000 4)).master 1).outst = .admitting (wr 0x1000 4) ∧
    (let s := asks { demo with header := { demo.header with policy := .open } } 1 (rd 0x2000 4)
     s.part = .running ∧ (s.master 1).state = .opened ∧ s.header.policy = .open ∧
       ∀ w, winValid (s.window w) = true → winHolds (s.window w) (rd 0x2000 4).addr = false) := by
  unfold State.reaches
  decide

/-! The claim unit: cell 30 is the first of window 3 (NOWAIT), cell 25 the last of window 2 (WAIT). -/

theorem witness_ClaimReadRefusedWithoutWait :
    (asks (owned 30 1 7 none demo) 2 (rd 0xC100 4)).reachesCell 2 (rd 0xC100 4) 3 30 ∧
    ((asks (owned 30 1 7 none demo) 2 (rd 0xC100 4)).master 2).outst = .admitting (rd 0xC100 4) ∧
    ((asks (owned 30 1 7 none demo) 2 (rd 0xC100 4)).cell 30).owner = some 1 ∧ winWait (demo.window 3) = false := by
  unfold State.reachesCell State.reaches
  decide

theorem witness_ClaimReadsGrantedHeldOrWaiting :
    (asks demo 2 (rd 0xC03C 4)).reachesCell 2 (rd 0xC03C 4) 2 25 ∧
    ((asks demo 2 (rd 0xC03C 4)).cell 25).owner = none ∧
    ((asks (owned 25 2 1 none demo) 2 (rd 0xC03C 4)).cell 25).owner = some 2 ∧
    (asks (owned 25 2 1 none demo) 2 (rd 0xC03C 4)).reachesCell 2 (rd 0xC03C 4) 2 25 ∧
    (asks (owned 25 1 1 none demo) 2 (rd 0xC03C 4)).reachesCell 2 (rd 0xC03C 4) 2 25 ∧
    ((asks (owned 25 1 1 none demo) 2 (rd 0xC03C 4)).cell 25).owner = some 1 ∧ winWait (demo.window 2) = true ∧
    (asks (owned 25 1 1 none demo) 2 (rd 0xC03C 4)).freeEntry 0 ∧
    (asks (full demo) 2 (rd 0xC000 4)).reachesCell 2 (rd 0xC000 4) 2 10 ∧
    ((asks (full demo) 2 (rd 0xC000 4)).cell 10).owner = some 1 ∧ (asks (full demo) 2 (rd 0xC000 4)).poolFull := by
  unfold State.reachesCell State.reaches State.freeEntry State.poolFull
  decide

theorem witness_ClaimWrites :
    (asks (owned 25 2 1 none demo) 2 (wr 0xC03C 4)).reachesCell 2 (wr 0xC03C 4) 2 25 ∧
    ((asks (owned 25 2 1 none demo) 2 (wr 0xC03C 4)).cell 25).owner = some 2 ∧
    (∀ e ∈ (asks (owned 25 2 1 none demo) 2 (wr 0xC03C 4)).hp.list, e.target ≠ .cell 25) ∧
    (asks (full demo) 1 (wr 0xC000 4)).reachesCell 1 (wr 0xC000 4) 2 10 ∧
    (asks (full demo) 1 (wr 0xC000 4)).winner (.cell 10) = some (waiter 0 8 (rd 0xC000 4) 2 (.cell 10) 0 none) ∧
    ((asks (full demo) 1 (wr 0xC000 4)).master 8).outst ≠ .none ∧
    (asks (demo.setCell 10 { Cell.reset with lapsed := some 2 }) 2 (wr 0xC000 4)).reachesCell 2 (wr 0xC000 4) 2 10 ∧
    ((asks (demo.setCell 10 { Cell.reset with lapsed := some 2 }) 2 (wr 0xC000 4)).cell 10).lapsed = some 2 ∧
    (asks demo 2 (wr 0xC000 4)).reachesCell 2 (wr 0xC000 4) 2 10 ∧
    ((asks demo 2 (wr 0xC000 4)).cell 10).owner ≠ some 2 ∧ ((asks demo 2 (wr 0xC000 4)).cell 10).lapsed ≠ some 2 := by
  unfold State.reachesCell State.reaches
  decide

theorem witness_ClaimRoleThenShape :
    (asks demo 4 (rd 0xC000 4)).reaches 4 (rd 0xC000 4) 2 ∧ winKind (demo.window 2) = .claim ∧
    winMember (demo.window 2) .read 4 = false ∧
    (asks demo 2 (rd 0xC000 8)).reaches 2 (rd 0xC000 8) 2 ∧ winMember (demo.window 2) .read 2 = true ∧
    (rd 0xC000 8).len ≠ 4 := by
  unfold State.reaches
  decide

/-! The ring tracker: the last slot and the first. -/

theorem witness_RingAccessForwarded :
    (let s := asks (ring2 (fun k => { k with wi := 3, fill := 3 }) demo) 4 (wr 0x80C0 64)
     s.reachesRing 4 (wr 0x80C0 64) 1 2 ∧ (s.ring 2).state = .running ∧ s.atCursor (wr 0x80C0 64) 1 2 ∧
       (s.ring 2).producer = .free ∧ (s.ring 2).fill < (s.ring 2).cfg.slotCount) ∧
    (let s := asks (ring2 (fun k => { k with wi := 1, fill := 1 }) demo) 5 (rd 0x8000 64)
     s.reachesRing 5 (rd 0x8000 64) 1 2 ∧ (s.ring 2).state = .running ∧ s.atCursor (rd 0x8000 64) 1 2 ∧
       (s.ring 2).consumer = .free ∧ 1 ≤ (s.ring 2).fill) := by
  unfold State.reachesRing State.reaches State.atCursor
  decide

theorem witness_RingRequestsTurnedAway :
    (asks demo 1 (rd 0x8000 64)).reaches 1 (rd 0x8000 64) 1 ∧ winMember (demo.window 1) .read 1 = false ∧
    (∀ x : RingState, (asks (ring2 (fun k => { k with state := x }) demo) 5 (rd 0x8000 64)).reachesRing 5 (rd 0x8000 64) 1 2 ∧
      ((asks (ring2 (fun k => { k with state := x }) demo) 5 (rd 0x8000 64)).ring 2).state = x) ∧
    (let s := asks (ring2 (fun k => { k with consumer := .reserved 6 }) demo) 5 (rd 0x8000 64)
     s.reachesRing 5 (rd 0x8000 64) 1 2 ∧ (s.ring 2).state = .running ∧
       (s.ring 2).lane (Dir.side (rd 0x8000 64).dir) ≠ .free ∧
       (s.ring 2).lane (Dir.side (rd 0x8000 64).dir) ≠ .reserved 5 ∧ s.freeEntry 0) ∧
    (let s := asks (full (ring2 (fun k => { k with consumer := .busy 6 true }) demo)) 5 (rd 0x8000 64)
     s.reachesRing 5 (rd 0x8000 64) 1 2 ∧ (s.ring 2).lane (Dir.side (rd 0x8000 64).dir) ≠ .free ∧ s.poolFull) := by
  unfold State.reachesRing State.reaches State.freeEntry State.poolFull
  refine ⟨by decide, by decide, ?_, by decide, by decide⟩
  intro x
  cases x <;> decide

theorem witness_StraysFaultOrFreeze :
    (let s := asks demo 4 (wr 0x8040 64)
     s.reachesRing 4 (wr 0x8040 64) 1 2 ∧ (s.ring 2).state = .running ∧ (s.ring 2).producer = .free ∧
       ¬ s.atCursor (wr 0x8040 64) 1 2 ∧ (s.ring 2).cfg.stray = .fault) ∧
    (let s := asks (ring2 (fun k => { k with cfg := { config with stray := .freeze }, producer := .busy 4 false }) demo) 5
        (rd 0x8004 4)
     s.reachesRing 5 (rd 0x8004 4) 1 2 ∧ (s.ring 2).consumer = .free ∧ ¬ s.atCursor (rd 0x8004 4) 1 2 ∧
       (s.ring 2).cfg.stray = .freeze) := by
  unfold State.reachesRing State.reaches State.atCursor
  decide

/-- Ring 2 full under an overrun policy, with master 4 writing at its cursor. -/
def fullRing (o : Overrun) (consumer : Lane) (s : State) : State :=
  asks (ring2 (fun k => { k with cfg := { config with overrun := o }, fill := 4, consumer := consumer }) s) 4 (wr 0x8000 64)

theorem witness_FullRingFollowsOverrunPolicy :
    ∀ o : Overrun, ∀ l ∈ [Lane.free, .reserved 5, .busy 5 false],
      let s := fullRing o l demo
      let u := fullRing o l (full demo)
      (s.master 4).outst = .admitting (wr 0x8000 64) ∧ s.reachesRing 4 (wr 0x8000 64) 1 2 ∧
      (s.ring 2).state = .running ∧ (s.ring 2).producer = .free ∧ s.atCursor (wr 0x8000 64) 1 2 ∧
      (s.ring 2).fill = (s.ring 2).cfg.slotCount ∧ (s.ring 2).cfg.overrun = o ∧ (s.ring 2).consumer = l ∧ s.freeEntry 0 ∧
      u.reachesRing 4 (wr 0x8000 64) 1 2 ∧ u.atCursor (wr 0x8000 64) 1 2 ∧ (u.ring 2).fill = 4 ∧ u.poolFull := by
  unfold State.reachesRing State.reaches State.atCursor State.freeEntry State.poolFull
  intro o
  cases o <;> decide

/-- Ring 2 empty under an underrun policy, with master 5 reading at its cursor. -/
def emptyRing (x : Underrun) (s : State) : State :=
  asks (ring2 (fun k => { k with cfg := { config with underrun := x } }) s) 5 (rd 0x8000 64)

theorem witness_EmptyRingFollowsUnderrunPolicy :
    ∀ x : Underrun,
      let s := emptyRing x demo
      let u := emptyRing x (full demo)
      (s.master 5).outst = .admitting (rd 0x8000 64) ∧ s.reachesRing 5 (rd 0x8000 64) 1 2 ∧
      (s.ring 2).state = .running ∧ (s.ring 2).consumer = .free ∧ s.atCursor (rd 0x8000 64) 1 2 ∧
      (s.ring 2).fill = 0 ∧ (s.ring 2).cfg.underrun = x ∧ s.freeEntry 0 ∧
      u.reachesRing 5 (rd 0x8000 64) 1 2 ∧ u.atCursor (rd 0x8000 64) 1 2 ∧ u.poolFull := by
  unfold State.reachesRing State.reaches State.atCursor State.freeEntry State.poolFull
  intro x
  cases x <;> decide

theorem witness_WakeRequestsReserveLanes :
    (demo.ring 0).state ≠ .running ∧ (demo.ring 2).state = .running ∧ demo.header.noticeRing = some 7 ∧
    ¬ ((2 : RingNo) = 7) ∧ ¬ (demo.ring 2).mayWake .consumer ∧ demo.winner (.ring 2 .producer) = none ∧
    (let e := waiter 0 5 (rd 0x8000 64) 1 (.ring 2 .consumer) 40 (some 0)
     let s := parks e (ring2 (fun k => { k with wi := 1, fill := 1 }) demo)
     (s.ring 2).mayWake .consumer ∧ s.winner (.ring 2 .consumer) = some e ∧ (s.master 5).outst ≠ .none) := by
  unfold Ring.mayWake
  decide

theorem witness_PoolWinnerIsHighestThenEarliest :
    demo.winner (.cell 10) = none ∧
      (full demo).winner (.cell 10) = some (waiter 0 8 (rd 0xC000 4) 2 (.cell 10) 0 none) := by decide

theorem witness_ReplaysUseTheirReservedLane :
    (let s := woken 4 (wr 0x8000 64) .producer demo
     (s.ring 2).lane .producer = .reserved 4 ∧ s.reachesRing 4 (wr 0x8000 64) 1 2 ∧ (s.ring 2).state = .running ∧
       s.atCursor (wr 0x8000 64) 1 2 ∧ (s.ring 2).fill < (s.ring 2).cfg.slotCount) ∧
    (let s := woken 5 (rd 0x8000 64) .consumer (ring2 (fun k => { k with wi := 1, fill := 1 }) demo)
     (s.ring 2).lane .consumer = .reserved 5 ∧ s.reachesRing 5 (rd 0x8000 64) 1 2 ∧ s.atCursor (rd 0x8000 64) 1 2 ∧
       1 ≤ (s.ring 2).fill) ∧
    (let s := { woken 5 (rd 0x8000 64) .consumer demo with part := .halted }
     (s.ring 2).lane .consumer = .reserved 5 ∧ s.part ≠ .running) ∧
    (let s := woken 5 (rd 0x8000 64) .consumer (demo.setMaster 5 { Master.reset with state := .fenced, outst := .parked (rd 0 4) })
     (s.ring 2).lane .consumer = .reserved 5 ∧ s.part = .running ∧ (s.master 5).state = .fenced) ∧
    (let s := woken 5 (rd 0x8000 64) .consumer (ring2 (fun k => { k with state := .off }) demo)
     (s.ring 2).lane .consumer = .reserved 5 ∧ s.reachesRing 5 (rd 0x8000 64) 1 2 ∧ (s.ring 2).state = .off) ∧
    (let s := woken 5 (rd 0x8000 64) .consumer demo
     (s.ring 2).lane .consumer = .reserved 5 ∧ s.reachesRing 5 (rd 0x8000 64) 1 2 ∧ s.atCursor (rd 0x8000 64) 1 2 ∧
       (s.ring 2).fill = 0 ∧ (s.ring 2).cfg.underrun = .hold ∧ s.freeEntry 0) := by
  unfold State.reachesRing State.reaches State.atCursor State.freeEntry
  decide

theorem witness_ReplaysUseTheirReservedLane_turned_away :
    (let s := woken 1 (rd 0xD000 4) .consumer demo
     (s.ring 2).lane .consumer = .reserved 1 ∧ s.judge 1 (rd 0xD000 4) = .fault .blocked (some 4)) ∧
    (let s := woken 1 (rd 0x1000 4) .consumer demo
     (s.ring 2).lane .consumer = .reserved 1 ∧ s.judge 1 (rd 0x1000 4) = .forward (some 0)) ∧
    (let s := woken 1 (rd 0x8000 64) .consumer demo
     (s.ring 2).lane .consumer = .reserved 1 ∧ s.reaches 1 (rd 0x8000 64) 1 ∧ winKind (s.window 1) = .ring ∧
       winMember (s.window 1) .read 1 = false) ∧
    (let s := woken 5 (rd 0x8000 64) .consumer (ring2 (fun k => { k with state := .frozen }) demo)
     s.reachesRing 5 (rd 0x8000 64) 1 2 ∧ (s.ring 2).state = .frozen) ∧
    (∀ x : StrayPolicy, let s := woken 4 (wr 0x80C0 64) .producer (ring2 (fun k => { k with cfg := { config with stray := x } }) demo)
     (s.ring 2).lane .producer = .reserved 4 ∧ s.reachesRing 4 (wr 0x80C0 64) 1 2 ∧ (s.ring 2).state = .running ∧
       ¬ s.atCursor (wr 0x80C0 64) 1 2 ∧ (s.ring 2).cfg.stray = x) := by
  unfold State.reachesRing State.reaches State.atCursor
  refine ⟨by decide, by decide, by decide, by decide, ?_⟩
  intro x
  cases x <;> decide

/-- Master 4's write of ring 2 woken while the ring is full, among entries that first parked before it and after it. -/
def wokenFull (o : Overrun) (consumer : Lane) (s : State) : State :=
  woken 4 (wr 0x8000 64) .producer
    (ring2 (fun k => { k with cfg := { config with overrun := o }, fill := 4, consumer := consumer }) s)

/-- A pool with an entry that first parked second and one that first parked fifth. -/
def twoParked : State :=
  parks (waiter 1 8 (rd 0xC000 4) 2 (.cell 10) 5 none) (parks (waiter 0 9 (rd 0xC000 4) 2 (.cell 10) 2 none) (owned 10 1 1 none demo))

theorem witness_ReplaysUseTheirReservedLane_closed_flow :
    (∀ o : Overrun, ∀ l ∈ [Lane.free, .busy 5 false],
      let s := wokenFull o l twoParked
      let u := wokenFull o l (full demo)
      (s.ring 2).lane .producer = .reserved 4 ∧ s.reachesRing 4 (wr 0x8000 64) 1 2 ∧ (s.ring 2).state = .running ∧
      s.atCursor (wr 0x8000 64) 1 2 ∧ (s.ring 2).cfg.slotCount ≤ (s.ring 2).fill ∧ (s.ring 2).cfg.overrun = o ∧
      (s.ring 2).consumer = l ∧ s.freeEntry 2 ∧
      s.hp.list = [waiter 0 9 (rd 0xC000 4) 2 (.cell 10) 2 none] ++ [waiter 1 8 (rd 0xC000 4) 2 (.cell 10) 5 none] ∧
      u.reachesRing 4 (wr 0x8000 64) 1 2 ∧ u.atCursor (wr 0x8000 64) 1 2 ∧ u.poolFull) ∧
    (∀ x : Underrun,
      let s := woken 5 (rd 0x8000 64) .consumer (ring2 (fun k => { k with cfg := { config with underrun := x } }) twoParked)
      (s.ring 2).lane .consumer = .reserved 5 ∧ s.reachesRing 5 (rd 0x8000 64) 1 2 ∧ (s.ring 2).state = .running ∧
      s.atCursor (rd 0x8000 64) 1 2 ∧ (s.ring 2).fill = 0 ∧ (s.ring 2).cfg.underrun = x ∧ s.freeEntry 2) := by
  unfold State.reachesRing State.reaches State.atCursor State.freeEntry State.poolFull
  constructor
  · intro o
    cases o <;> decide
  · intro x
    cases x <;> decide

/-! The downstream port. -/

theorem witness_JoiningWorkIssuedOrQueued :
    (let s : State := { demo with hand := { demo.hand with joins := [noticeJoin, passRead 3, passRead 2] } }
     s.hand.joins = [noticeJoin] ++ passRead 3 :: [passRead 2] ∧ (passRead 3).source = .master 3 ∧
       (∀ x ∈ [noticeJoin], x.source ≠ .master 3) ∧ s.dn.link = .idle) ∧
    (flying 5 0 9 [] demo).dn.link ≠ .idle := by decide

theorem witness_ArbiterIssuesHighestThenEarliest :
    (flying 5 0 9 [passRead 2] demo).dn.link ≠ .idle ∧ demo.dn.queue = [] ∧
      (let s : State := { demo with dn := { queue := [passRead 3, noticeJoin], link := .idle, tag := 15 } }
       s.dn.link = .idle ∧ s.dn.queue ≠ []) := by decide

theorem witness_ResponsesEndOrReissueTheRequest :
    let f : InFlight := { entry := passRead 3, tag := 15, retries := 2, timer := 0 }
    let g : InFlight := { entry := access .producer, tag := 0, retries := 0, timer := 9 }
    (flying 15 2 0 [] demo).dn.link = .issued f ∧ (List.replicate 64 (0 : Byte)).length = f.entry.len ∧
      f.entry.dir = .read ∧ ([] : List Byte).length ≠ f.entry.len ∧ (List.replicate 60 (0 : Byte)).length ≠ f.entry.len ∧
      ({ demo with dn := { demo.dn with link := .issued g } } : State).dn.link = .issued g ∧ g.entry.dir = .write ∧ demo.header.retryBudget.toNat ≤ f.retries.toNat ∧ f.timer = 0 ∧
      ({ f with retries := 1 } : InFlight).retries.toNat < demo.header.retryBudget.toNat := by decide

theorem witness_OtherResponsesDiscarded :
    demo.dn.link = .idle ∧ (∃ f, (flying 5 0 9 [] demo).dn.link = .issued f ∧ f.tag ≠ 4) ∧
      (let s : State := { demo with dn := { queue := [passRead 3], link := .settling 8 0, tag := 0 } }
       (∃ t left, s.dn.link = .settling t left ∧ t ≠ 9) ∧ s.dn.link = .settling 8 0) :=
  ⟨by decide, ⟨_, rfl, by decide⟩, ⟨_, _, rfl, by decide⟩, by decide⟩

theorem witness_PassResultsAnswered :
    ∀ ending ∈ [Ending.done (List.replicate 64 0), .fault, .timeout],
      let x : DownResult := { entry := passRead 3, ending := ending }
      let y : DownResult := { entry := passRead 2, ending := .fault }
      let s := phase { demo with hand := { demo.hand with results := [y, x] } } 3 (.inFlight (rd 0x1000 64))
      s.hand.results = [y] ++ x :: [] ∧ x.entry.source = .master 3 ∧ x.entry.purpose = .pass (some 0) ∧
        y.entry.source ≠ .master 3 ∧ (s.master 3).outst = .inFlight (rd 0x1000 64) ∧ x.ending = ending := by decide

theorem witness_ProducerDoneAdvancesOrCommits :
    let x : DownResult := { entry := access .producer, ending := .done [] }
    (∀ wo ∈ [0, 48], let s := completing (.done []) .producer (ring2 (fun k => { k with wo := wo }) demo)
      s.hand.results.find? (fun y => y.forRing 2 .producer && y.ending.isDone) = some x ∧
      x.entry.source = .master 4 ∧ x.entry.purpose = .ring 2 .producer 1 ∧
      (s.master 4).outst = .inFlight (wr 0x8030 16) ∧ (s.ring 2).producer = .busy 4 false ∧ s.boundWindow 2 = some 1) ∧
    0 + x.entry.len ≠ config.slotSize ∧ 48 + x.entry.len = config.slotSize ∧
    ((ring2 (fun k => { k with producer := .busy 4 true }) (completing (.done []) .producer demo)).ring 2).producer =
      .busy 4 true := by decide

theorem witness_NoticeWriteCommitsLikeAnyWrite :
    ∀ d : Bool, ∀ size ∈ [64, 128],
      let x : DownResult := { entry := noticeJoin, ending := .done [] }
      let s : State := { demo.setRing 7 { runningRing with cfg := { config with slotSize := size }, producer := .busy 0 d } with
        hand := { demo.hand with results := [x], nwResult := some { ring := 7, ending := .done [], detached := none } } }
      s.hand.results.find? (fun y => y.forRing 7 .producer && y.ending.isDone) = some x ∧
      x.entry.source = .noticeWriter ∧ x.entry.purpose = .notice 7 ∧ (s.ring 7).producer = .busy 0 d ∧
      ((s.ring 7).wo + x.entry.len = (s.ring 7).cfg.slotSize ↔ size = 64) ∧ s.boundWindow 7 = some 5 := by decide

theorem witness_ConsumerDoneAdvancesOrReleases :
    let x : DownResult := { entry := access .consumer, ending := .done (List.replicate 16 9) }
    (∀ ro ∈ [0, 48], ∀ d : Bool,
      let s := ring2 (fun k => { k with wi := 1, fill := 1, ro := ro, consumer := .busy 5 d })
        (completing (.done (List.replicate 16 9)) .consumer demo)
      s.hand.results.find? (fun y => y.forRing 2 .consumer && y.ending.isDone) = some x ∧
      x.entry.source = .master 5 ∧ x.entry.purpose = .ring 2 .consumer 1 ∧
      (s.master 5).outst = .inFlight (rd 0x8030 16) ∧ (s.ring 2).consumer = .busy 5 d) ∧
    0 + x.entry.len ≠ config.slotSize ∧ 48 + x.entry.len = config.slotSize := by decide

theorem witness_FailedRingAccessKeepsCursors :
    ∀ ending ∈ [Ending.fault, .timeout],
      let x : DownResult := { entry := access .producer, ending := ending }
      let y : DownResult := { entry := access .consumer, ending := ending }
      let s := completing ending .producer demo
      let u := completing ending .consumer demo
      s.hand.results.find? (fun z => z.forRing 2 .producer && !z.ending.isDone) = some x ∧
      x.entry.purpose = .ring 2 .producer 1 ∧ (s.master 4).outst = .inFlight (wr 0x8030 16) ∧
      (s.ring 2).lane .producer = .busy 4 false ∧
      u.hand.results.find? (fun z => z.forRing 2 .consumer && !z.ending.isDone) = some y ∧
      (u.master 5).outst = .inFlight (rd 0x8030 16) ∧ (u.ring 2).lane .consumer = .busy 5 false := by decide

theorem witness_FailedRingAccessKeepsCursors_notice_write :
    ∀ ending ∈ [Ending.fault, .timeout], ∀ d : Bool,
      let x : DownResult := { entry := noticeJoin, ending := ending }
      let s : State := { demo.setRing 7 { runningRing with producer := .busy 0 d } with
        hand := { demo.hand with results := [x], nwResult := some { ring := 7, ending := ending, detached := none } } }
      s.hand.results.find? (fun y => y.forRing 7 .producer && !y.ending.isDone) = some x ∧
      x.entry.source = .noticeWriter ∧ x.entry.purpose = .notice 7 ∧ (s.ring 7).producer = .busy 0 d := by decide

/-! The notice writer. -/

theorem witness_NoticeIssuedUnderItsConditions :
    (let s : State := { demo.setRing 7 { runningRing with wi := 3, fill := 3 } with
       nw := { NoticeWriter.reset with queue := [record 300], lost := 1 } }
     s.nw.writer = .idle ∧ s.nw.queue = record 300 :: [] ∧ s.header.noticeRing = some 7 ∧ s.boundWindow 7 = some 5 ∧
       s.part = .running ∧ (s.ring 7).state = .running ∧ (s.ring 7).producer = .free ∧
       (s.ring 7).fill < (s.ring 7).cfg.slotCount) ∧
    (writing .fault none demo).nw.writer ≠ .idle ∧ demo.nw.queue = [] ∧ State.reset.header.noticeRing = none ∧
    (unbound demo).header.noticeRing = some 7 ∧ (unbound demo).boundWindow 7 = none ∧
    State.reset.part ≠ .running ∧ (State.reset.ring 7).state ≠ .running ∧ ((writing .fault none demo).ring 7).producer ≠ .free ∧
    ((demo.setRing 7 { runningRing with fill := 4 }).ring 7).cfg.slotCount ≤ 4 := by decide

theorem witness_NoticeWriteResults :
    ∀ ending ∈ [Ending.done [], .fault, .timeout], ∀ found ∈ [none, some true, some false],
      (writing ending found demo).hand.nwResult = some { ring := 7, ending := ending, detached := found } ∧
        (writing ending found demo).nw.writer = .writing (record 300) ∧
        ((writing ending found demo).ring 7).producer = .busy 0 false ∧
        (((writing ending found demo).setRing 7 { runningRing with producer := .busy 0 true }).ring 7).producer =
          .busy 0 true := by decide

theorem witness_NoticesCreatedMaskedOrLost :
    ∀ mask ∈ [(0x7E : BitVec 7), 0x7F], ∀ n ∈ [6, 7],
      let s : State := { demo with
        nw := { NoticeWriter.reset with mask := mask, queue := List.replicate n (record 1), writer := .writing (record 0) },
        hand := { demo.hand with notices := [(record 0).notice] } }
      s.hand.notices[0]? = some (record 0).notice ∧ s.nw.queue.length = n ∧ s.nw.writer = .writing (record 0) ∧
        s.nw.mask.getLsbD (kindCode NoticeKind.fault - 1) = (mask == 0x7F) := by decide

theorem witness_NoticeCommands :
    demo.resetAsserted = false ∧ demo.ml.long = none ∧ demo.nw.queue = [] ∧ demo.nw.writer ≠ .stalled ∧
      (let s : State := { demo with nw := { NoticeWriter.reset with queue := [record 1], writer := .stalled } }
       s.nw.queue = record 1 :: [] ∧ s.nw.writer = .stalled) ∧ 128 ≤ (128 : Byte).toNat := by decide

/-! The cadence monitor: the intervals at the ends of each class, and each way a commit can go. -/

theorem witness_CommitsMeasureTheCadence :
    (100 + 10 < (111 : BitVec 16).toNat ∧ (89 : BitVec 16).toNat + 10 < 100 ∧ 100 ≤ (90 : BitVec 16).toNat + 10 ∧
      (110 : BitVec 16).toNat ≤ 100 + 10) ∧
    (∀ k ∈ [{ Cadence.initial with elapsed := none }, { Cadence.initial with cls := .on, elapsed := some 90 },
        { Cadence.initial with cls := .on, elapsed := some 89 },
        { Cadence.initial with cls := .on, candidate := some .fast, run := 1, elapsed := some 89 }],
      let s := committing k demo
      s.hand.commits = [] ++ ({ ring := 2, master := 4, addr := 0x8000 } : CommitSignal) :: [] ∧ s.cad 2 = k ∧
        (s.ring 2).state = .running ∧ (s.ring 2).cfg.target ≠ 0 ∧ s.boundWindow 2 = some 1 ∧
        (unbound s).cad 2 = k ∧ (unbound s).boundWindow 2 = none) ∧
    intervalClass config 90 = .on ∧ intervalClass config 89 = .fast ∧ CadClass.fast ≠ .on ∧ config.confirm = 2 ∧
    (ring2 (fun k => { k with state := .off }) demo |>.ring 2).state ≠ .running := by decide

theorem witness_WatchExpiryStopAndStart :
    (∀ c ∈ [CadClass.slow, .fast],
      let k : Cadence := { cls := c, candidate := none, run := 0, elapsed := some 110, last := some 80, watch := some 0 }
      (demo.setCad 2 k).cad 2 = k ∧ k.watch = some 0 ∧ k.elapsed = some 110 ∧ (demo.setCad 2 k).boundWindow 2 = some 1 ∧
        (unbound (demo.setCad 2 k)).cad 2 = k ∧ (unbound (demo.setCad 2 k)).boundWindow 2 = none) ∧
    (demo.hand.cadStop.put 2 true).nth 2 = true ∧ (demo.hand.cadStart.put 2 true).nth 2 = true := by decide

/-! Time. -/

theorem witness_TicksAndMillisecondStepsAdvanceTheTimers :
    State.reset.resetAsserted = true ∧ demo.resetAsserted = false ∧ demo.cu.divider < 999 ∧
      ({ demo with cu := { divider := 999, msDue := 1 } } : State).cu.divider = 999 ∧ demo.dn.link = .idle ∧
      (flying 5 0 0 [] demo).dn.link = .issued { entry := passRead 3, tag := 5, retries := 0, timer := 0 } ∧
      (∃ tag left, ({ demo with dn := { demo.dn with link := .settling 8 1 } } : State).dn.link = .settling tag left) ∧
      (demo.ring 2).state = .running ∧ (demo.ring 2).cfg.target ≠ 0 ∧ (demo.ring 0).state ≠ .running ∧ demo.cu.msDue = 0 ∧
      ({ demo with cu := { divider := 999, msDue := 1 } } : State).cu.msDue ≠ 0 :=
  ⟨by decide, by decide, by decide, by decide, by decide, by decide, ⟨_, _, rfl⟩, by decide, by decide, by decide, by decide,
    by decide⟩

theorem witness_RingEntryExpires :
    let e := waiter 7 5 (rd 0x8000 64) 1 (.ring 2 .consumer) 40 (some 0)
    let d := waiter 0 4 (wr 0x8000 64) 1 (.ring 2 .producer) 39 (some 3)
    let s := parks e (parks d demo)
    s.hp.list = [d] ++ e :: [] ∧ e.slot = 7 ∧ d.slot ≠ 7 ∧ e.target = .ring 2 .consumer ∧ e.remaining = some 0 ∧
      (s.master e.master).outst = .parked e.rq := by decide

theorem witness_ClaimEntryExpires :
    let e := waiter 7 3 (rd 0xC000 4) 2 (.cell 10) 40 (some 0)
    let s := parks e (owned 10 1 255 none demo)
    s.hp.list = [] ++ e :: [] ∧ e.slot = 7 ∧ e.target = .cell 10 ∧ e.remaining = some 0 ∧
      (s.master e.master).outst = .parked e.rq ∧ (s.cell 10).owner = some 1 := by decide

theorem witness_ForcedEndsOfOwnership :
    (let u := owned 63 9 5 (some 0) demo
     (u.cell 63).owner = some 9 ∧ (∀ e ∈ u.hp.list, e.target ≠ .cell 63) ∧ u.quiet = u ∧ (u.cell 63).lease = some 0) ∧
    (let s := parks (waiter 1 2 (rd 0xC008 4) 2 (.cell 12) 0 none) (owned 12 9 5 none demo)
     let u := { s.quiet with ml := { s.ml with frame := nextFrame s.ml.frame } }
     (u.cell 12).owner = some 9 ∧ u.winner (.cell 12) = some (waiter 1 2 (rd 0xC008 4) 2 (.cell 12) 0 none) ∧
       (u.master 2).outst ≠ .none ∧ s.resetAsserted = false ∧ s.ml.long = none ∧ s.part = .running) ∧
    (let s := { owned 12 9 5 none demo with hand := { demo.hand with drops := [(9, 12)] } }
     (9, 12) ∈ s.hand.drops ∧
       (({ s.quiet with hand := { s.hand with drops := s.hand.drops.erase (9, 12) } } : State).cell 12).owner = some 9) ∧
    64 ≤ (64 : Byte).toNat ∧ (demo.cell 63).owner = none ∧ (loading 0 .fault).part ≠ .running ∧
    demo.resetAsserted = false ∧ demo.ml.long = none := by
  decide

/-! Follow-on work. -/

theorem witness_CancellationsAnswerTheirEntries :
    let s : State := { parks (waiter 7 5 (rd 0x8000 64) 1 (.ring 2 .consumer) 40 (some 9)) demo with
      hand := { demo.hand with
        stopPool := true, stopCells := true, cancelStop := demo.hand.cancelStop.put 2 true,
        cancelFreeze := demo.hand.cancelFreeze.put 2 true } }
    s.waiterLaw ∧ s.hand.stopPool = true ∧ s.hand.stopCells = true ∧ s.hand.cancelStop.nth 2 = true ∧
      s.hand.cancelFreeze.nth 2 = true ∧ (full demo).waiterLaw ∧
      ∀ e : ParkEntry, (e.onRing 2 = true ↔ ∃ side, e.target = .ring 2 side) := by
  unfold State.waiterLaw
  refine ⟨by decide, by decide, by decide, by decide, by decide, by decide, ?_⟩
  intro e
  rcases h : e.target with ⟨q, side⟩ | ⟨c⟩ <;> simp [ParkEntry.onRing, h]

theorem witness_BlocksTakeStopAndEntry :
    let s : State := { demo with
      hand := { demo.hand with
        stopRings := true, runRings := true, runNotices := true, headerCopy := true, drops := [(9, 12)] } }
    s.hand.stopRings = true ∧ s.hand.runRings = true ∧ (s.ring 2).cfg.startAtRun = true ∧ (s.ring 0).cfg.startAtRun = false ∧
      (s.ring 0).state ≠ .running ∧ (s.setRing 0 { runningRing with cfg := { config with startAtRun := false } } |>.ring 0).state = .running ∧
      (s.setRing 0 { runningRing with cfg := { config with startAtRun := false } } |>.ring 0).cfg.startAtRun = false ∧
      s.hand.runNotices = true ∧ s.hand.headerCopy = true ∧ (9, 12) ∈ s.hand.drops ∧ (s.cell 12).owner ≠ some 9 := by decide

/-! The table loader. -/

/-- The 832 bytes of an image with an empty table: the header words of R206 and nothing else, with its balance word. -/
def image : List Byte := bytesOf ([0x31200001, 0xCEDD0100, 0x0001FF00, 0, 0xFFFF] ++ List.replicate 203 0)

/-- Why a check of a table failed; none for one that passed. -/
def failure : Except Failure Image → Option Failure
  | .ok _ => none
  | .error f => some f

theorem accepted {x : Except Failure Image} (h : failure x = none) : ∃ i, x = .ok i := by
  cases x with
  | ok i => exact ⟨i, rfl⟩
  | error f => cases h

theorem refused {x : Except Failure Image} {f : Failure} (h : failure x = some f) : x = .error f := by
  cases x with
  | ok i => cases h
  | error g => cases h; rfl

theorem witness_TableReadsFillCheckAndInstall :
    (∀ ending ∈ [Ending.done (List.replicate 64 0), .fault, .timeout], ∀ n ∈ [0, 11, 12],
      ((loading n ending).hand.results.find? DownResult.forLoader).map (·.ending) = some ending ∧
        (loading n ending).tl.load = some { origin := .command, addr := 0x41000, reads := n, staging := [] }) ∧
    (31 : Fin 32).val = 31 ∧ image.length = 832 ∧ (image.drop 768).length = 64 ∧
    (∃ i, validate (wordsOf (image.take 768 ++ image.drop 768)) = .ok i) ∧
    ∃ f, validate (wordsOf ([] ++ List.replicate 64 0)) = .error f :=
  ⟨by decide, by decide, by decide +kernel, by decide +kernel, accepted (by decide +kernel),
    ⟨{ code := .badFormat, index := none }, refused (by decide +kernel)⟩⟩

/-- The words of an image with its format word, its balance word and these words after them. -/
def balanced (words : List Word) : List Word := 0x31200001 :: -(words.sum + 0x31200001) :: words

/-- The words of an image up to word `n`: the header words 2 to 4 of R206 with this notice ring, and zeros. -/
def header (ring : Word) (n : Nat) : List Word := [0x00010000 + 256 * ring, 0, 0xFFFF] ++ List.replicate (n - 5) 0

/-- What every check after BAD_HEADER asks of the words before it. -/
def headed (ws : List Word) : Bool :=
  imageWord ws 0 == 0x31200001 && ws.sum == 0 &&
    (decodeHeader (imageWord ws 0) (imageWord ws 1) (Tbl.tabulate fun k => imageWord ws (2 + k.val))).isSome

/-- Windows that pass their own check, do not overlap and leave the ring records alone. -/
def windowed (ws : List Word) : Bool :=
  headed ws && (List.finRange 32).all fun j => winWellFormed (imageWindow ws j) &&
    (List.finRange 32).all fun i => !decide (i < j) || !winOverlap (imageWindow ws i) (imageWindow ws j)

/-- Every ring record of the image is the unconfigured one. -/
def bare (ws : List Word) : Bool := (List.finRange 8).all fun r => decodeImageRing (imageRing ws r) == some RingConfig.unconfigured

/-- The words of one image for each check that fails: an alert level of 0; entry 31 of size 0; entries 30 and 31 overlapping; ring 7 without a
confirm count; entry 31 binding the unconfigured ring 7; entries 30 and 31 both binding ring 7; the notice ring 7 without a window; entries 30
and 31 sharing a cell. -/
def badHeader : List Word := balanced [0]
def badWindow : List Word := balanced (header 0xFF 141 ++ [0x2000000])
def overlapping : List Word :=
  balanced (header 0xFF 136 ++ (window 0x30000 0 1 0 0 2 2 0).toList ++ (window 0x30000 0 2 0 0 2 2 0).toList)
def badRecord : List Word := balanced (header 0xFF 200 ++ [0x00100001])
def badSize : List Word := balanced (header 0xFF 140 ++ (window 0x8000 7 4 1 0 0x20 0x10 0).toList)
def boundTwice : List Word :=
  balanced (header 0xFF 136 ++ (window 0x8000 7 4 1 0 0x20 0x10 0).toList ++ (window 0x9000 7 4 1 0 0x20 0x10 0).toList ++
    List.replicate 56 0 ++ [0x00040001, 0x100])
def noNoticeWindow : List Word := balanced (header 7 16)
def sharedCells : List Word :=
  balanced (header 0xFF 136 ++ (window 0xC000 10 1 2 0 0xE 0xE 0).toList ++ (window 0xC100 25 1 2 0 0xE 0xE 0).toList)

theorem test_table_checks :
    [wordsOf image, badHeader, badWindow, overlapping, badRecord, badSize, boundTwice, noNoticeWindow, sharedCells].map
        (fun ws => failure (validate ws)) =
      [none, some { code := .badHeader, index := none }, some { code := .badWindow, index := some 31 },
        some { code := .overlap, index := some 31 }, some { code := .badRing, index := some 7 },
        some { code := .badRing, index := some 7 }, some { code := .badRing, index := some 7 },
        some { code := .badRing, index := some 7 }, some { code := .badCells, index := some 31 }] := by decide +kernel

theorem witness_ValidatedTablesAreConsistent :
    (∃ i, validate (wordsOf image) = .ok i) ∧ imageWord [] 0 ≠ 0x31200001 ∧
      (imageWord [0x31200001] 0 = 0x31200001 ∧ ([0x31200001] : List Word).sum ≠ 0) ∧
      (∃ ws, validate ws = .error { code := .badWindow, index := some 31 }) ∧
      ∃ ws, validate ws = .error { code := .overlap, index := some 31 } := by
  have checks := test_table_checks
  simp only [List.map_cons, List.map_nil, List.cons.injEq] at checks
  obtain ⟨passes, -, window, overlap, -⟩ := checks
  exact ⟨accepted passes, by decide, by decide, ⟨_, refused window⟩, ⟨_, refused overlap⟩⟩

theorem witness_ValidatedTablesAreConsistent_failures :
    (imageWord badHeader 0 = 0x31200001 ∧ badHeader.sum = 0 ∧
      decodeHeader (imageWord badHeader 0) (imageWord badHeader 1) (Tbl.tabulate fun k => imageWord badHeader (2 + k.val)) =
        none) ∧
    (headed badWindow = true ∧ winWellFormed (imageWindow badWindow 31) = false ∧
      ∀ i : WindowNo, i < 31 → winWellFormed (imageWindow badWindow i) = true) ∧
    (headed overlapping = true ∧ (∀ j, winWellFormed (imageWindow overlapping j) = true) ∧
      winOverlap (imageWindow overlapping 30) (imageWindow overlapping 31) = true ∧
      ∀ k : WindowNo, k < 31 → ∀ l, l < k → winOverlap (imageWindow overlapping l) (imageWindow overlapping k) = false) ∧
    (windowed badRecord = true ∧ decodeImageRing (imageRing badRecord 7) = none ∧
      ∀ q : RingNo, q < 7 → decodeImageRing (imageRing badRecord q) ≠ none) ∧
    (windowed badSize = true ∧ bare badSize = true ∧ winValid (imageWindow badSize 31) = true ∧
      winKind (imageWindow badSize 31) = .ring ∧
      winSize (imageWindow badSize 31) ≠ RingConfig.unconfigured.slotSize * RingConfig.unconfigured.slotCount) ∧
    (windowed boundTwice = true ∧ (∀ r, decodeImageRing (imageRing boundTwice r) ≠ none) ∧
      winSameRing (imageWindow boundTwice 30) (imageWindow boundTwice 31) = true) ∧
    (windowed noNoticeWindow = true ∧ bare noNoticeWindow = true ∧
      ∀ j, winValid (imageWindow noNoticeWindow j) = false ∧ winNamesRing (imageWindow noNoticeWindow j) 7 = false) ∧
    (windowed sharedCells = true ∧ bare sharedCells = true ∧ (∀ j, winKind (imageWindow sharedCells j) ≠ .ring) ∧
      winCellsOverlap (imageWindow sharedCells 30) (imageWindow sharedCells 31) = true ∧
      ∀ k : WindowNo, k < 31 → ∀ l, l < k →
        winCellsOverlap (imageWindow sharedCells l) (imageWindow sharedCells k) = false) := by decide +kernel

theorem witness_LayoutsReadBack :
    demo.header.inRange ∧ demo.header.prios.nth 0 = 0 ∧ ringWellFormed config = true := by
  unfold Header.inRange
  decide

/-! Resets and the management link. -/

theorem witness_ResetsSampleTheStrapsAndStartAgain :
    State.reset.resetAsserted = true ∧ demo.resetAsserted = false ∧ demo.ml.long = none ∧ demo.dn.link = .idle ∧
      (flying 5 0 0 [] demo).dn.link = .issued { entry := passRead 3, tag := 5, retries := 0, timer := 0 } ∧
      ({ demo with dn := { demo.dn with link := .settling 8 0 } } : State).dn.link = .settling 8 0 ∧
      resetting.pending = [] ∧ resetting.ml.long = some { command := .reset, frame := 4 } ∧ resetting.strapPins = straps0 ∧
      ({ resetting with strapPins := { loadOnReset := true, tablePage := 255 } } : State).strapPins =
        { loadOnReset := true, tablePage := 255 } := by decide

theorem witness_FramesNumberedRefusedAndPolled :
    commandCode .status = some 0x01 ∧ frameMalformed 0x00 [] = true ∧ State.reset.resetAsserted = true ∧
      demo.resetAsserted = false ∧ demo.ml.long = none ∧ demo.ml.response = none ∧
      (loading 0 .fault).resetAsserted = false ∧ (loading 0 .fault).ml.long = some { command := .load, frame := 41 } ∧
      resetting.resetAsserted = false ∧ resetting.ml.long = some { command := .reset, frame := 4 } ∧
      (let r : Response := { code := 1, frame := 42, status := .busy, refusal := true, data := [] }
       let s : State := { loading 0 .fault with ml := { (loading 0 .fault).ml with response := some r } }
       s.resetAsserted = false ∧ s.ml.response = some r ∧ r.status = .busy ∧ r.refusal = true ∧
         s.ml.long = some { command := .load, frame := 41 }) ∧
      (let r : Response := { code := 1, frame := 42, status := .busy, refusal := false, data := [] }
       let s : State := { demo with ml := { demo.ml with response := some r } }
       s.ml.response = some r ∧ ¬ (r.status = .busy ∧ r.refusal = true)) := by decide

theorem witness_ReadingCommandsReturnViews :
    demo.resetAsserted = false ∧ demo.ml.long = none ∧ (15 : MasterNo) ≠ 0 ∧ 32 ≤ (32 : Byte).toNat ∧ 8 ≤ (8 : Byte).toNat ∧
      64 ≤ (64 : Byte).toNat ∧ 16 ≤ (16 : Byte).toNat ∧
      (let s : State := { loading 12 .fault with ml := MgmtLink.reset }
       s.resetAsserted = false ∧ s.ml.long = none ∧
         s.tl.load = some { origin := .command, addr := 0x41000, reads := 12, staging := [] }) ∧
      demo.coveringWindow 25 = some 2 ∧ demo.coveringWindow 45 = some 3 ∧
      ((asks demo 15 (rd 0x1000 64)).master 15).outst.request? = some (rd 0x1000 64) ∧
      (let s := parks (waiter 7 15 (rd 0xC000 4) 2 (.cell 10) 0 none) demo
       (s.master 15).outst = .parked (rd 0xC000 4) ∧
         s.hp.list.find? (fun x => x.master == 15) = some (waiter 7 15 (rd 0xC000 4) 2 (.cell 10) 0 none)) ∧
      ((woken 5 (rd 0x8000 64) .consumer demo).master 5).outst =
        .laneHeld (rd 0x8000 64) { ring := 2, side := .consumer, window := 1, seq := 3, order := 3, remaining := some 7 } := by
  decide

theorem witness_EditsCheckedInOrderThenMade_header :
    (let s : State := { demo with part := .halted }
     s.part = .halted ∧ demo.part ≠ .halted ∧ s.resetAsserted = false ∧ s.ml.long = none ∧
       decodeHeader s.header.format s.header.balance (Tbl.all 14 0) = none ∧
       (decodeHeader s.header.format s.header.balance #v[0x000107FF, 0, 1, 0, 0, 0, 0, 0, 0, 0, 0, 0, 0, 0]) = none ∧
       noticeBound s.windows (some 2) = false ∧ noticeBound s.windows (some 7) = true ∧
       (decodeHeader s.header.format s.header.balance #v[0x00010200, 0, 1, 0, 0, 0, 0, 0, 0, 0, 0, 0, 0, 0]).map (·.noticeRing) =
         some (some 2) ∧
       (decodeHeader s.header.format s.header.balance #v[0x00010700, 0, 1, 0, 0, 0, 0, 0, 0, 0, 0, 0, 0, 0]).map (·.noticeRing) =
         some (some 7)) := by decide

theorem witness_EditsCheckedInOrderThenMade_window :
    (loading 0 .fault).part = .loading ∧ demo.part = .running ∧ 32 ≤ (32 : Byte).toNat ∧
      winWellFormed (window 0x30000 1 1 0 0 2 2 0) = false ∧ winWellFormed (window 0x30000 16 1 2 0 2 2 0) = true ∧
      (31 : Byte) = BitVec.ofNat 8 (31 : WindowNo).val ∧ demo.editConflicts 31 (window 0x30000 16 1 2 0 2 2 0) = true ∧
      demo.editConflicts 31 (window 0x30000 46 1 2 0 2 2 0) = false ∧ demo.editBusy 31 (window 0x30000 46 1 2 0 2 2 0) = false ∧
      (owned 31 1 1 none demo).editConflicts 3 (window 0xC100 30 1 2 0 2 2 0) = false ∧
      (owned 31 1 1 none demo).editBusy 3 (window 0xC100 30 1 2 0 2 2 0) = true := by decide

theorem witness_EditsCheckedInOrderThenMade_ring :
    let rec0 : RingWords := #v[0x00100001, 0x100, 0, 0, 0, 0, 0, 0]
    decodeRingConfig (Tbl.all 8 0) = none ∧
      decodeRingConfig rec0 = some { RingConfig.unconfigured with slotSize := 64, slotCount := 16, confirm := 1 } ∧
      (demo.ring 2).state ≠ .off ∧ (demo.ring 3).state = .off ∧
      (let s := ring2 (fun k => { k with state := .off }) demo
       s.boundWindow 2 = some 1 ∧ winSize (s.window 1) ≠ 64 * 16) ∧
      (∀ w, demo.boundWindow 3 = some w → False) ∧
      ((demo.setRing 3 { Ring.reset with producer := .busy 4 true }).ring 3).producer ≠ .free ∧
      (demo.ring 3).producer = .free ∧ (demo.ring 3).consumer = .free := by decide

theorem witness_RingStartAndStop :
    demo.resetAsserted = false ∧ demo.ml.long = none ∧ 8 ≤ (8 : Byte).toNat ∧ (demo.ring 2).state = .running ∧
      (demo.ring 3).cfg = RingConfig.unconfigured ∧ (demo.ring 3).state = .off ∧
      (∀ x ∈ [RingState.off, .frozen], ∀ l ∈ [Lane.free, .busy 4 true],
        let s := ring2 (fun k => { k with state := x, producer := l }) demo
        s.part = .running ∧ (s.ring 2).state ≠ .running ∧ (s.ring 2).cfg ≠ RingConfig.unconfigured ∧
          (s.ring 2).producer = l ∧ (s.ring 2).consumer = .free) := by decide

theorem witness_MasterAndPartCommands :
    demo.resetAsserted = false ∧ demo.ml.long = none ∧ 4 ≤ (4 : Byte).toNat ∧ 16 ≤ (16 : Byte).toNat ∧
      (demo.master 15).state = .opened ∧ (demo.master 15).outst = .none ∧ demo.part = .running ∧
      ((demo.setMaster 15 { Master.reset with state := .fenced }).master 15).state = .fenced ∧
      ((asks demo 15 (rd 0x1000 4)).master 15).outst = .admitting (rd 0x1000 4) ∧
      ((phase demo 15 (.inFlight (rd 0x1000 4))).master 15).outst = .inFlight (rd 0x1000 4) ∧
      (∃ rq k, ((woken 4 (wr 0x8000 64) .producer demo).master 4).outst = .laneHeld rq k) ∧
      demo.part ≠ .halted ∧ (loading 0 .fault).part ≠ .running ∧ demo.tl.valid = true ∧ State.reset.tl.valid = false ∧
      ({ demo with part := .halted } : State).part = .halted ∧ (0xFFFFFCC0 : Word).toNat % 64 = 0 ∧
      (0xFFFFFCC0 : Word).toNat + 832 ≤ 2 ^ 32 ∧ (0xFFFFFCE0 : Word).toNat % 64 ≠ 0 ∧
      2 ^ 32 < (0xFFFFFD00 : Word).toNat + 832 :=
  ⟨by decide, by decide, by decide, by decide, by decide, by decide, by decide, by decide, by decide, by decide,
    ⟨_, _, rfl⟩, by decide, by decide, by decide, by decide, by decide, by decide, by decide, by decide, by decide⟩

theorem witness_MasterAndPartCommands_dropped_requests :
    (let e := waiter 7 15 (rd 0xC000 4) 2 (.cell 10) 0 none
     let d := waiter 0 3 (rd 0xC000 4) 2 (.cell 10) 0 none
     let s := parks e (parks d (owned 10 1 1 none demo))
     (s.master 15).outst = .parked (rd 0xC000 4) ∧ s.hp.list = [d] ++ e :: [] ∧ e.master = 15 ∧
       (∀ x ∈ [d] ++ [], x.master ≠ 15)) ∧
    (let e := forwarded 4 (wr 0x8000 16) (.ring 2 .producer 1)
     let s := phase { ring2 (fun k => { k with producer := .busy 4 false }) demo with
       dn := { queue := [passRead 2, e],
               link := .issued { entry := passRead 3, tag := 0, retries := 0, timer := 9 }, tag := 1 } } 4 (.queued (wr 0x8000 16))
     (s.master 4).outst = .queued (wr 0x8000 16) ∧
       (s.dn.queue ++ s.hand.joins).filter (fun x => x.source == .master 4) = [e] ∧
       e.purpose = .ring 2 .producer 1 ∧ (s.ring 2).lane .producer = .busy 4 false) ∧
    (let s := phase { demo with hand := { demo.hand with joins := [passRead 2] } } 2 (.queued (rd 0x1000 64))
     (s.master 2).outst = .queued (rd 0x1000 64) ∧
       (s.dn.queue ++ s.hand.joins).filter (fun x => x.source == .master 2) = [passRead 2] ∧
       (passRead 2).purpose = .pass (some 0)) := by decide

end Sys2Proof.Tests
end

namespace Sys2Proof.Machine

/-! ### What each event of the blocks leaves alone

The events that only handle requests, results, wakes and notices change no more than `State.Handled` allows. -/

section Handling

variable {s t : State}

theorem State.Handled.start (s : State) : s.Handled s.begin := (State.Handled.refl s).begin

theorem execUpstreamRequest_handled {m : MasterNo} {rq : Request} (h : execUpstreamRequest m rq s = .next t) :
    s.Handled t := by
  unfold execUpstreamRequest at h
  split at h
  · split at h <;> cases h
    · exact (State.Handled.start s).setMaster m _ rfl rfl
    · exact State.Handled.start s
  · cases h

theorem execAdmission_handled {m : MasterNo} (h : execAdmission m s = .next t) : s.Handled t := by
  unfold execAdmission at h
  split at h <;> cases h
  · exact (State.Handled.start s).takeAdmission _ _ _
  · exact State.Handled.start s

theorem execReplay_handled {m : MasterNo} (h : execReplay m s = .next t) : s.Handled t := by
  unfold execReplay at h
  split at h <;> cases h
  · exact (State.Handled.start s).takeAdmission _ _ _
  · exact State.Handled.start s

theorem execPassResult_handled {m : MasterNo} (h : execPassResult m s = .next t) : s.Handled t := by
  unfold execPassResult at h
  split at h
  · have answered := fun x : DownResult =>
      ((State.Handled.start s).takeResult (DownResult.forPass m)).answerSource x.entry.source x.ending.toAnswer
    dsimp only at h
    split at h <;> cases h
    · exact answered _
    · exact (answered _).noticeSource _ _ _
  · cases h
    exact State.Handled.start s

theorem execRingProducerDone_handled {r : RingNo} (h : execRingProducerDone r s = .next t) : s.Handled t := by
  unfold execRingProducerDone at h
  dsimp only at h
  split at h <;> cases h
  · exact ((State.Handled.start s).takeResult _).producerDone _ _
  · exact State.Handled.start s

theorem execRingConsumerDone_handled {r : RingNo} (h : execRingConsumerDone r s = .next t) : s.Handled t := by
  unfold execRingConsumerDone at h
  dsimp only at h
  split at h <;> cases h
  · exact ((State.Handled.start s).takeResult _).consumerDone _ _ _
  · exact State.Handled.start s

theorem execRingAccessFailed_handled {r : RingNo} {side : Side} (h : execRingAccessFailed r side s = .next t) :
    s.Handled t := by
  unfold execRingAccessFailed at h
  dsimp only at h
  split at h <;> cases h
  · exact ((State.Handled.start s).takeResult _).accessFailed _ _ _ _
  · exact State.Handled.start s

theorem execRingParkExpiry_handled {i : EntryNo} (h : execRingParkExpiry i s = .next t) : s.Handled t := by
  unfold execRingParkExpiry at h
  split at h
  · split at h
    · split at h <;> cases h
      · exact ((State.Handled.start s).setHp _).faultWithNotice _ _ _ _ _
      · exact State.Handled.start s
    · cases h
      exact State.Handled.start s
  · cases h
    exact State.Handled.start s

theorem execClaimParkExpiry_handled {i : EntryNo} (h : execClaimParkExpiry i s = .next t) : s.Handled t := by
  unfold execClaimParkExpiry at h
  split at h
  · split at h
    · cases h
      exact State.Handled.start s
    · split at h <;> cases h
      · exact ((State.Handled.start s).setHp _).answer _ _
      · exact State.Handled.start s
  · cases h
    exact State.Handled.start s

theorem execLeaseExpiry_handled {c : CellNo} (h : execLeaseExpiry c s = .next t) : s.Handled t := by
  unfold execLeaseExpiry at h
  split at h
  · split at h <;> cases h
    · exact (State.Handled.start s).forceEnd _ _ _
    · exact State.Handled.start s
  · cases h
    exact State.Handled.start s

theorem execDropOwnerships_handled {m : MasterNo} {c : CellNo} (h : execDropOwnerships m c s = .next t) :
    s.Handled t := by
  unfold execDropOwnerships at h
  split at h
  · dsimp only at h
    split at h <;> cases h
    · exact ((State.Handled.start s).setHand _).forceEnd _ _ _
    · exact (State.Handled.start s).setHand _
  · cases h
    exact State.Handled.start s

theorem execRunEntryNotices_handled (h : execRunEntryNotices s = .next t) : s.Handled t := by
  unfold execRunEntryNotices at h
  split at h <;> cases h
  · exact ((State.Handled.start s).setHand _).nwEvaluate
  · exact State.Handled.start s

theorem execStopPool_handled (h : execStopPool s = .next t) : s.Handled t := by
  unfold execStopPool at h
  split at h <;> cases h
  · exact ((State.Handled.start s).setHand _).cancelEntries _ _
  · exact State.Handled.start s

theorem execStopCells_handled (h : execStopCells s = .next t) : s.Handled t := by
  unfold execStopCells at h
  split at h <;> cases h
  · refine State.Handled.cancelEntries ?_ _ _
    exact { (State.Handled.start s).setHand { s.hand with stopCells := false } with }
  · exact State.Handled.start s

theorem execStopRings_handled (h : execStopRings s = .next t) : s.Handled t := by
  unfold execStopRings at h
  split at h <;> cases h
  · have cleared := (State.Handled.start s).setHand { s.hand with stopRings := false, cadStop := s.departures }
    exact { cleared with cfg := fun r => by simp [State.ring, Ring.detachLanes] }
  · exact State.Handled.start s

theorem execPoolCancelRingStop_handled {r : RingNo} (h : execPoolCancelRingStop r s = .next t) : s.Handled t := by
  unfold execPoolCancelRingStop at h
  split at h <;> cases h
  · exact ((State.Handled.start s).setHand _).cancelRing _ _
  · exact State.Handled.start s

theorem execPoolCancelFreeze_handled {r : RingNo} (h : execPoolCancelFreeze r s = .next t) : s.Handled t := by
  unfold execPoolCancelFreeze at h
  split at h <;> cases h
  · exact ((State.Handled.start s).setHand _).cancelRing _ _
  · exact State.Handled.start s

end Handling

end Sys2Proof.Machine

namespace Sys2Proof.Tbl

variable {α β : Type} {n : Nat}

theorem mapAll_put (f : α → β) (t : Tbl α n) (i : Fin n) (x : α) : (t.put i x).mapAll f = (t.mapAll f).put i (f x) := by
  ext j
  rw [nth_mapAll, nth_put, nth_put, nth_mapAll]
  split <;> rfl

end Sys2Proof.Tbl

namespace Sys2Proof.Machine

/-! ### The live table as one value -/

/-- The live table in the shape of an image: header, window entries and ring configurations (R1, R24). -/
def State.table (s : State) : Image :=
  { header := s.header, windows := s.windows, configs := s.rings.mapAll (·.cfg) }

section Table

variable {s t : State}

@[simp] theorem State.table_header (s : State) : s.table.header = s.header := rfl

@[simp] theorem State.table_windows (s : State) : s.table.windows = s.windows := rfl

@[simp] theorem State.table_configs (s : State) (r : RingNo) : s.table.configs.nth r = (s.ring r).cfg := by
  simp [State.table, State.ring]

theorem State.table_eq_iff {i : Image} :
    t.table = i ↔ t.header = i.header ∧ t.windows = i.windows ∧ ∀ r, (t.ring r).cfg = i.configs.nth r := by
  constructor
  · rintro rfl
    exact ⟨rfl, rfl, fun r => (t.table_configs r).symm⟩
  · rintro ⟨hheader, hwindows, hconfigs⟩
    obtain ⟨header, windows, configs⟩ := i
    have hc : t.rings.mapAll (·.cfg) = configs := Tbl.ext_nth fun r => by
      rw [← hconfigs r, Tbl.nth_mapAll]
      rfl
    simp only [State.table, hheader, hwindows, hc]

/-- What the handling of requests, results, wakes and notices leaves alone holds the live table. -/
theorem State.Handled.table (h : s.Handled t) : t.table = s.table :=
  State.table_eq_iff.2 ⟨h.header, h.windows, fun r => by rw [h.cfg r, State.table_configs]⟩

theorem State.setRing_table (s : State) (r : RingNo) (k : Ring) :
    (s.setRing r k).table = { s.table with configs := s.table.configs.put r k.cfg } := by
  simp only [State.table, State.setRing, Tbl.mapAll_put]

theorem State.setMl_table (s : State) (ml : MgmtLink) : (s.setMl ml).table = s.table := rfl

/-! ### The downstream port -/

theorem State.arbitrate_table (s : State) : s.arbitrate.table = s.table := by
  by_cases hidle : s.dn.link = .idle
  · by_cases hq : s.dn.queue = []
    · rw [State.arbitrate_empty s hq]
    · obtain ⟨pre, e, post, -, -, -, heq⟩ := s.arbitrate_spec hidle hq
      rw [heq]
      rfl
  · rw [State.arbitrate_busy s hidle]

theorem State.endFlight_table (s : State) (e : QueueEntry) (ending : Ending) : (s.endFlight e ending).table = s.table :=
  State.arbitrate_table _

theorem State.endSettling_table (s : State) : s.endSettling.table = s.table := State.arbitrate_table _

theorem State.join_table (s : State) (e : QueueEntry) : (s.join e).table = s.table := by
  by_cases hidle : s.dn.link = .idle
  · rw [State.join_idle s e hidle]
    rfl
  · rw [State.join_busy s e hidle]
    rfl

theorem State.doneFlight_table (s : State) (e : QueueEntry) (data : List Byte) :
    (s.doneFlight e data).table = s.table := by
  unfold State.doneFlight
  split
  · exact s.endFlight_table _ _
  · split
    · exact s.endFlight_table _ _
    · exact s.countHole.endFlight_table _ _

theorem execQueueJoin_table {src : Source} (h : execQueueJoin src s = .next t) : t.table = s.table := by
  unfold execQueueJoin at h
  dsimp only at h
  split at h <;> cases h
  · exact State.join_table _ _
  · rfl

theorem execDownstreamDone_table {tag : BitVec 4} {data : List Byte} (h : execDownstreamDone tag data s = .next t) :
    t.table = s.table := by
  unfold execDownstreamDone at h
  split at h
  · split at h <;> cases h
    · exact State.doneFlight_table _ _ _
    · rfl
  · split at h <;> cases h
    · exact State.endSettling_table _
    · rfl
  · cases h
    rfl

theorem execDownstreamRetry_table {tag : BitVec 4} (h : execDownstreamRetry tag s = .next t) : t.table = s.table := by
  unfold execDownstreamRetry at h
  split at h
  · split at h
    · split at h <;> cases h
      · rfl
      · exact State.endFlight_table _ _ _
    · cases h
      rfl
  · split at h <;> cases h
    · exact State.endSettling_table _
    · rfl
  · cases h
    rfl

theorem execDownstreamFault_table {tag : BitVec 4} (h : execDownstreamFault tag s = .next t) : t.table = s.table := by
  unfold execDownstreamFault at h
  split at h
  · split at h <;> cases h
    · exact State.endFlight_table _ _ _
    · rfl
  · split at h <;> cases h
    · exact State.endSettling_table _
    · rfl
  · cases h
    rfl

theorem execResponseTimeout_table (h : execResponseTimeout s = .next t) : t.table = s.table := by
  unfold execResponseTimeout at h
  split at h
  · split at h <;> cases h
    · exact State.endFlight_table _ _ _
    · rfl
  · cases h
    rfl
  · cases h
    rfl

theorem execSettlingEnd_table (h : execSettlingEnd s = .next t) : t.table = s.table := by
  unfold execSettlingEnd at h
  split at h
  · split at h <;> cases h
    · exact State.endSettling_table _
    · rfl
  · cases h
    rfl
  · cases h
    rfl

/-! ### Notices, cadence and time -/

theorem State.nwEvaluate_table (s : State) : s.nwEvaluate.table = s.table := (State.Handled.refl s).nwEvaluate.table

theorem State.createNotice_table (s : State) (n : Notice) : (s.createNotice n).table = s.table := by
  unfold State.createNotice
  dsimp only
  split
  · exact State.nwEvaluate_table _
  · rfl

theorem State.noticeResult_table (s : State) (x : NoticeResult) (sent : NoticeRecord) :
    (s.noticeResult x sent).table = s.table := by
  unfold State.noticeResult
  split
  · split
    · exact State.nwEvaluate_table _
    · exact State.nwEvaluate_table _
  · rfl

theorem execNoticeHandoff_table {i : Nat} (h : execNoticeHandoff i s = .next t) : t.table = s.table := by
  unfold execNoticeHandoff at h
  split at h
  · dsimp only at h
    split at h <;> cases h
    · exact State.createNotice_table _ _
    · rfl
  · cases h
    rfl

theorem execNoticeWriteResult_table (h : execNoticeWriteResult s = .next t) : t.table = s.table := by
  unfold execNoticeWriteResult at h
  split at h <;> cases h
  · exact State.noticeResult_table _ _ _
  · rfl

theorem State.cadenceNotice_table (s : State) (r : RingNo) (m : MasterNo) (a : Option Word) (old new : CadClass)
    (i : BitVec 16) (w : Bool) : (s.cadenceNotice r m a old new i w).table = s.table :=
  ((State.Handled.refl s).cadenceNotice r m a old new i w).table

theorem execCadenceCommit_table {r : RingNo} (h : execCadenceCommit r s = .next t) : t.table = s.table := by
  unfold execCadenceCommit at h
  dsimp only at h
  split at h
  · split at h <;> cases h
    · unfold State.cadenceCommit
      dsimp only
      split
      · rfl
      · exact State.cadenceNotice_table _ _ _ _ _ _ _ _
    · rfl
  · cases h
    rfl

theorem execWatchExpiry_table {r : RingNo} (h : execWatchExpiry r s = .next t) : t.table = s.table := by
  unfold execWatchExpiry at h
  split at h
  · dsimp only at h
    split at h <;> cases h
    · rfl
    · exact State.cadenceNotice_table _ _ _ _ _ _ _ _
  · cases h
    rfl

theorem execStopCadence_table {r : RingNo} (h : execStopCadence r s = .next t) : t.table = s.table := by
  unfold execStopCadence at h
  split at h <;> cases h <;> rfl

theorem execCadenceRingStart_table {r : RingNo} (h : execCadenceRingStart r s = .next t) : t.table = s.table := by
  unfold execCadenceRingStart at h
  split at h <;> cases h <;> rfl

theorem execTick_table (h : execTick s = .next t) : t.table = s.table := by
  unfold execTick at h
  split at h <;> cases h <;> rfl

theorem execMillisecondStep_table (h : execMillisecondStep s = .next t) : t.table = s.table := by
  unfold execMillisecondStep at h
  split at h <;> cases h <;> rfl

/-! ### The part's follow-on events and the end of a reset -/

theorem execRunEntryRings_table (h : execRunEntryRings s = .next t) : t.table = s.table := by
  unfold execRunEntryRings at h
  split at h
  · have kept := State.Handled.foldl_runEntryRing (List.finRange 8)
      ((State.Handled.start s).setHand { s.hand with runRings := false })
    rw [Host.Outcome.next.injEq] at h
    rw [h] at kept
    exact kept.table
  · cases h
    rfl

theorem execHeaderCopy_table (h : execHeaderCopy s = .next t) : t.table = s.table := by
  unfold execHeaderCopy at h
  split at h <;> cases h <;> rfl

theorem State.endReset_table (s : State) (cause : ResetCause) : (s.endReset cause).table = s.table := by
  unfold State.endReset
  dsimp only
  split <;> rfl

theorem execResetNRelease_table {st : Straps} (h : execResetNRelease st s = .next t) : t.table = s.table := by
  unfold execResetNRelease at h
  split at h <;> cases h
  · exact State.endReset_table _ _
  · rfl

theorem State.idle_table (s : State) : s.idle.table = s.table := by
  unfold State.idle
  split
  · split
    · exact State.endReset_table s.begin .command
    · rfl
  · rfl

end Table

end Sys2Proof.Machine

namespace Sys2Proof.Machine

/-! ### The consistency conditions of a table (R9, R10) -/

/-- The consistency conditions of a table: each entry well formed, no two entries in conflict, each bound ring of its window's size, the notice
ring bound (R9, R10). -/
structure Image.Consistent (i : Image) : Prop where
  wellFormed : ∀ w, winWellFormed (i.windows.nth w) = true
  noOverlap : ∀ v w, v ≠ w → winOverlap (i.windows.nth v) (i.windows.nth w) = false
  noSharedCell : ∀ v w, v ≠ w → winCellsOverlap (i.windows.nth v) (i.windows.nth w) = false
  noSharedRing : ∀ v w, v ≠ w → winSameRing (i.windows.nth v) (i.windows.nth w) = false
  sizes : ∀ w, winValid (i.windows.nth w) = true → winKind (i.windows.nth w) = .ring →
    winSize (i.windows.nth w) = (i.configs.nth (winRing (i.windows.nth w))).bytes
  bound : noticeBound i.windows i.header.noticeRing = true

theorem State.tableLaw_iff (s : State) : s.tableLaw ↔ s.table.Consistent := by
  constructor
  · rintro ⟨wellFormed, overlap, cells, rings, sizes, bound⟩
    exact ⟨wellFormed, overlap, cells, rings,
      fun w hv hk => by rw [State.table_configs]; exact sizes w hv hk, bound⟩
  · intro h
    exact ⟨h.wellFormed, h.noOverlap, h.noSharedCell, h.noSharedRing,
      fun w hv hk => by have := h.sizes w hv hk; rwa [State.table_configs] at this, h.bound⟩

/-- A table whose entries are all zero and whose notice ring is NONE is consistent: an invalid entry conflicts with nothing. -/
theorem State.reset_table_consistent : State.reset.table.Consistent := by
  have invalid : winValid (Tbl.all 4 0) = false := by decide
  have entry : ∀ w, State.reset.table.windows.nth w = Tbl.all 4 0 := fun w => Tbl.nth_all _ w
  constructor
  · intro w; rw [entry w, winWellFormed, invalid]; rfl
  · intro v w _; rw [entry v, winOverlap, invalid]; rfl
  · intro v w _; rw [entry v, winCellsOverlap, invalid]; rfl
  · intro v w _; rw [entry v, winSameRing, invalid]; rfl
  · intro w hv; rw [entry w, invalid] at hv; cases hv
  · rfl

section Edits

variable {i : Image}

/-- Entry `w` replaced by one that conflicts with no other leaves no conflict between two entries. -/
theorem pairwise_put {c : WindowWords → WindowWords → Bool} {ws : Tbl WindowWords 32} {w : WindowNo} {e : WindowWords}
    (comm : ∀ u v, c u v = c v u) (old : ∀ u v, u ≠ v → c (ws.nth u) (ws.nth v) = false)
    (new : ∀ j, j ≠ w → c e (ws.nth j) = false) :
    ∀ u v, u ≠ v → c ((ws.put w e).nth u) ((ws.put w e).nth v) = false := by
  intro u v huv
  rw [Tbl.nth_put, Tbl.nth_put]
  split
  · next hu =>
    rw [if_neg fun hv => huv (hu.symm.trans hv)]
    exact new v fun hv => huv (hu.symm.trans hv.symm)
  · next hu =>
    split
    · rw [comm]
      exact new u fun h => hu h.symm
    · exact old u v huv

/-- What an edit must not do, read off the check of WRITE_WINDOW (R19). -/
theorem State.editConflicts_eq_false {s : State} {w : WindowNo} {e : WindowWords} (h : s.editConflicts w e = false) :
    (∀ j, j ≠ w → winOverlap e (s.window j) = false ∧ winSameRing e (s.window j) = false ∧
      winCellsOverlap e (s.window j) = false) ∧
    (winValid e = true → winKind e = .ring → winSize e = (s.ring (winRing e)).cfg.bytes) ∧
    noticeBound (s.windows.put w e) s.header.noticeRing = true := by
  simp only [State.editConflicts, Bool.or_eq_false_iff, List.any_eq_false, Bool.not_eq_false'] at h
  obtain ⟨⟨clash, size⟩, bound⟩ := h
  refine ⟨fun j hj => ?_, fun hv hk => ?_, bound⟩
  · have := clash j (List.mem_finRange j)
    simpa [hj, and_assoc] using this
  · simpa [hv, hk] using size

theorem Image.Consistent.putWindow {s : State} (h : s.table.Consistent) {w : WindowNo} {e : WindowWords}
    (he : winWellFormed e = true) (hc : s.editConflicts w e = false) :
    Image.Consistent { s.table with windows := s.windows.put w e } := by
  obtain ⟨clash, size, bound⟩ := State.editConflicts_eq_false hc
  constructor
  · intro v
    simp only [Tbl.nth_put]
    split
    · exact he
    · exact h.wellFormed v
  · exact pairwise_put winOverlap_comm h.noOverlap fun j hj => (clash j hj).1
  · exact pairwise_put winCellsOverlap_comm h.noSharedCell fun j hj => (clash j hj).2.2
  · exact pairwise_put winSameRing_comm h.noSharedRing fun j hj => (clash j hj).2.1
  · intro v
    simp only [Tbl.nth_put]
    split
    · rw [State.table_configs]
      exact size
    · exact h.sizes v
  · exact bound

theorem Image.Consistent.putHeader (h : i.Consistent) {x : Header} (hx : noticeBound i.windows x.noticeRing = true) :
    Image.Consistent { i with header := x } :=
  { h with bound := hx }

theorem winNamesRing_iff {e : WindowWords} {r : RingNo} :
    winNamesRing e r = true ↔ winValid e = true ∧ winKind e = .ring ∧ winRing e = r := by
  simp [winNamesRing, and_assoc]

/-- At most one window is bound to a ring, so the one found is the one (R10). -/
theorem Image.Consistent.boundWindow_eq {s : State} (h : s.table.Consistent) {w : WindowNo} {r : RingNo}
    (hw : winNamesRing (s.window w) r = true) : s.boundWindow r = some w := by
  refine find?_finRange_eq_some hw fun v hv => ?_
  by_contra hn
  obtain ⟨validW, ringW, rfl⟩ := winNamesRing_iff.1 hw
  obtain ⟨validV, ringV, same⟩ := winNamesRing_iff.1 (Bool.eq_true_of_not_eq_false hn)
  have apart : winSameRing (s.window v) (s.window w) = false := h.noSharedRing v w hv.ne
  simp [winSameRing, validW, ringW, validV, ringV, same] at apart

theorem Image.Consistent.putConfig {s : State} (h : s.table.Consistent) {r : RingNo} {k : RingConfig}
    (hk : s.sizeConflicts r k = false) :
    Image.Consistent { s.table with configs := s.table.configs.put r k } := by
  refine { h with sizes := fun w hv hr => ?_ }
  simp only [Tbl.nth_put]
  split
  · next hwr =>
    have named : winNamesRing (s.window w) r = true := winNamesRing_iff.2 ⟨hv, hr, hwr.symm⟩
    have size : winSize (s.window w) = k.bytes := by simpa [State.sizeConflicts, h.boundWindow_eq named] using hk
    exact size
  · exact h.sizes w hv hr

end Edits

/-! ### A validated image -/

theorem firstClash_none_of_ne {c : WindowNo → WindowNo → Bool} (comm : ∀ i j, c i j = c j i) (h : firstClash c = none)
    (i j : WindowNo) (hij : i ≠ j) : c i j = false := by
  rcases lt_or_gt_of_ne hij with hlt | hgt
  · exact firstClash_none h i j hlt
  · rw [comm]
    exact firstClash_none h j i hgt

/-- What check 6(b) leaves of an entry that passes it (R178). -/
theorem bindingFails_eq_false {ws : Tbl WindowWords 32} {cs : Tbl RingConfig 8} {j : WindowNo}
    (h : bindingFails ws cs j = false) :
    (∀ i, i < j → winSameRing (ws.nth i) (ws.nth j) = false) ∧
    (winValid (ws.nth j) = true → winKind (ws.nth j) = .ring →
      winSize (ws.nth j) = (cs.nth (winRing (ws.nth j))).bytes) := by
  by_cases hr : winValid (ws.nth j) = true ∧ winKind (ws.nth j) = .ring
  · simp only [bindingFails, hr.1, hr.2, beq_self_eq_true, Bool.and_self, Bool.true_and, Bool.or_eq_false_iff,
      List.any_eq_false] at h
    refine ⟨fun i hi => ?_, fun _ _ => by simpa [RingConfig.bytes] using h.2⟩
    simpa [hi] using h.1 i (List.mem_finRange i)
  · refine ⟨fun i _ => ?_, fun hv hk => absurd ⟨hv, hk⟩ hr⟩
    simp only [winSameRing, Bool.and_eq_false_iff]
    by_cases hv : winValid (ws.nth j) = true
    · have : winKind (ws.nth j) ≠ .ring := fun hk => hr ⟨hv, hk⟩
      simp [this]
    · simp [hv]

/-- Checks 4 to 7 leave only consistent images (R178). -/
theorem validateTable_consistent {h : Header} {ws : Tbl WindowWords 32} {rws : RingNo → RingWords} {i : Image}
    (hok : validateTable h ws rws = .ok i) : i.Consistent := by
  unfold validateTable at hok
  split at hok
  · cases hok
  next formed =>
  split at hok
  · cases hok
  next overlap =>
  split at hok
  · cases hok
  dsimp only at hok
  split at hok
  · cases hok
  next binding =>
  split at hok
  · next bound =>
    split at hok <;> cases hok
    next cells =>
    have bindings := fun j => bindingFails_eq_false (find?_finRange_none binding j)
    exact
      { wellFormed := fun w => by simpa using find?_finRange_none formed w
        noOverlap := firstClash_none_of_ne (fun _ _ => winOverlap_comm _ _) overlap
        noSharedCell := firstClash_none_of_ne (fun _ _ => winCellsOverlap_comm _ _) cells
        noSharedRing := fun v w hvw => by
          rcases lt_or_gt_of_ne hvw with hlt | hgt
          · exact (bindings w).1 v hlt
          · rw [winSameRing_comm]
            exact (bindings v).1 w hgt
        sizes := fun w => (bindings w).2
        bound := bound }
  · cases hok

theorem validate_consistent {ws : List Word} {i : Image} (h : validate ws = .ok i) : i.Consistent := by
  unfold validate at h
  split at h
  · cases h
  · split at h
    · cases h
    · split at h
      · cases h
      · exact validateTable_consistent h

end Sys2Proof.Machine

namespace Sys2Proof.Machine

/-! ### What the management commands do to the live table -/

section Commands

variable {s t : State}

/-- Beside its own record, the link leaves what the owner of the command left, or nothing of it when it does not take the command (R190). -/
theorem State.takeCommand_cases (s : State) (code : Byte) (owner : State → Reply) :
    ∃ ml, s.begin.takeCommand code owner = s.begin.setMl ml ∨
      s.begin.takeCommand code owner = (owner s.framed).state.setMl ml := by
  unfold State.takeCommand
  split
  · exact ⟨s.ml, Or.inl rfl⟩
  · dsimp only
    split
    · exact ⟨_, Or.inl rfl⟩
    · exact ⟨_, Or.inr rfl⟩

theorem State.takeCommand_table {code : Byte} {owner : State → Reply} (ho : ∀ u, (owner u).state.table = u.table) :
    (s.begin.takeCommand code owner).table = s.table := by
  obtain ⟨ml, h | h⟩ := s.takeCommand_cases code owner
  · rw [h]
    rfl
  · rw [h]
    exact ho s.framed

theorem shortCommand_table {code : Byte} {owner : State → Reply} (ho : ∀ u, (owner u).state.table = u.table)
    (h : shortCommand code owner s = .next t) : t.table = s.table := by
  cases h
  exact State.takeCommand_table ho

theorem ownReadWindow_table (b : Byte) (u : State) : (ownReadWindow b u).state.table = u.table := by
  unfold ownReadWindow
  split <;> rfl

theorem ownReadRing_table (b : Byte) (u : State) : (ownReadRing b u).state.table = u.table := by
  unfold ownReadRing
  split <;> rfl

theorem ownReadCell_table (b : Byte) (u : State) : (ownReadCell b u).state.table = u.table := by
  unfold ownReadCell
  split <;> rfl

theorem ownReadMaster_table (b : Byte) (u : State) : (ownReadMaster b u).state.table = u.table := by
  unfold ownReadMaster
  split <;> rfl

theorem ownRingStart_table (b : Byte) (u : State) : (ownRingStart b u).state.table = u.table := by
  unfold ownRingStart
  split
  · rfl
  · next r _ =>
    split
    · rfl
    · split
      · rfl
      · exact ((((State.Handled.refl u).setRing r _ (by rfl)).setHand _).wakeRequests r).table

theorem ownRingStop_table (b : Byte) (u : State) : (ownRingStop b u).state.table = u.table := by
  unfold ownRingStop
  split
  · rfl
  · next r _ =>
    split
    · rfl
    · exact (((State.Handled.refl u).setRing r _ (by rfl)).setHand _).table

theorem ownFreeCell_table (b : Byte) (u : State) : (ownFreeCell b u).state.table = u.table := by
  unfold ownFreeCell
  split
  · rfl
  · split
    · rfl
    · split
      · rfl
      · exact ((State.Handled.refl u).forceEnd _ _ _).table

theorem ownSetPriority_table (b p : Byte) (u : State) : (ownSetPriority b p u).state.table = u.table := by
  unfold ownSetPriority
  split
  · rfl
  · split <;> rfl

theorem State.withdraw_table (s : State) (m : MasterNo) : (s.withdraw m).table = s.table := by
  have answered : ((s.removeQueued m).answer m (.fault .dropped)).table = s.table :=
    ((State.Handled.refl (s.removeQueued m)).answer m _).table
  unfold State.withdraw
  dsimp only
  split
  · unfold State.releaseWithdrawn
    split
    · rw [(((State.Handled.refl ((s.removeQueued m).answer m (.fault .dropped))).setLane _ _ _).wakeRequests _).table]
      exact answered
    · exact answered
    · exact answered
    · exact answered
  · exact answered

theorem State.dropRequest_table (s : State) (m : MasterNo) : (s.dropRequest m).table = s.table := by
  unfold State.dropRequest
  split
  · exact s.withdraw_table m
  · exact ((State.Handled.refl s).cancelEntries _ _).table
  · rfl
  · rfl
  · rfl
  · rfl

theorem ownDropMaster_table (b : Byte) (u : State) : (ownDropMaster b u).state.table = u.table := by
  unfold ownDropMaster
  split
  · rfl
  · split
    · rfl
    · exact State.dropRequest_table _ _

theorem ownReopenMaster_table (b : Byte) (u : State) : (ownReopenMaster b u).state.table = u.table := by
  unfold ownReopenMaster
  split
  · rfl
  · split <;> rfl

theorem ownTakeNotice_table (u : State) : (ownTakeNotice u).state.table = u.table := by
  unfold ownTakeNotice
  split <;> rfl

theorem ownSetMask_table (b : Byte) (u : State) : (ownSetMask b u).state.table = u.table := by
  unfold ownSetMask
  split <;> rfl

theorem ownClearStall_table (u : State) : (ownClearStall u).state.table = u.table := by
  unfold ownClearStall
  split
  · exact State.nwEvaluate_table _
  · rfl
  · rfl

theorem ownStop_table (u : State) : (ownStop u).state.table = u.table := by
  unfold ownStop
  split <;> rfl

theorem ownStart_table (u : State) : (ownStart u).state.table = u.table := by
  unfold ownStart
  split <;> rfl

theorem ownLoad_table (addr : Word) (frame : Byte) (u : State) : (ownLoad addr frame u).state.table = u.table := by
  unfold ownLoad
  split
  · rfl
  · split <;> rfl

theorem execCommandFrameMalformed_table {code : Byte} {args : List Byte}
    (h : execCommandFrameMalformed code args s = .next t) : t.table = s.table := by
  unfold execCommandFrameMalformed at h
  split at h <;> cases h
  exact State.takeCommand_table fun _ => rfl

theorem execPoll_table {n : Nat} (h : execPoll s n = .next t) : t.table = s.table := by
  unfold execPoll at h
  split at h
  · cases h
    rfl
  · dsimp only at h
    split at h
    · split at h <;> cases h <;> rfl
    · cases h
      rfl

/-! ### The commands that edit the table (R1, R24) -/

theorem ownWriteHeader_cases (w : Tbl Word 14) (u : State) :
    (ownWriteHeader w u).state = u ∨
    ∃ h, noticeBound u.windows h.noticeRing = true ∧ (ownWriteHeader w u).state.table = { u.table with header := h } := by
  unfold ownWriteHeader
  split
  · exact Or.inl rfl
  · split
    · exact Or.inl rfl
    · next h _ =>
      split
      · next bound => exact Or.inr ⟨h, bound, rfl⟩
      · exact Or.inl rfl

theorem ownWriteWindow_cases (b : Byte) (e : WindowWords) (u : State) :
    (ownWriteWindow b e u).state = u ∨
    ∃ w, winWellFormed e = true ∧ u.editConflicts w e = false ∧
      (ownWriteWindow b e u).state.table = { u.table with windows := u.windows.put w e } := by
  unfold ownWriteWindow
  split
  · exact Or.inl rfl
  · split
    · exact Or.inl rfl
    · next w _ =>
      split
      · exact Or.inl rfl
      · next formed =>
        split
        · exact Or.inl rfl
        · next clear =>
          split
          · exact Or.inl rfl
          · exact Or.inr ⟨w, by simpa using formed, by simpa using clear, rfl⟩

theorem ownWriteRing_cases (b : Byte) (rec : RingWords) (u : State) :
    (ownWriteRing b rec u).state = u ∨
    ∃ r k, u.sizeConflicts r k = false ∧
      (ownWriteRing b rec u).state.table = { u.table with configs := u.table.configs.put r k } := by
  unfold ownWriteRing
  split
  · exact Or.inl rfl
  · split
    · next r k _ _ =>
      split
      · exact Or.inl rfl
      · split
        · exact Or.inl rfl
        · next fits =>
          split
          · exact Or.inl rfl
          · exact Or.inr ⟨r, k, by simpa using fits, State.setRing_table u r _⟩
    · exact Or.inl rfl

theorem ownReset_table (st : Straps) (frame : Byte) (u : State) : (ownReset st frame u).state.table = State.reset.table :=
  rfl

/-! ### The table loader -/

theorem State.failLoad_table (s : State) (f : Failure) : (s.failLoad f).table = s.table := by
  rw [State.failLoad, State.completeLoad_eq]
  rfl

theorem State.install_table (s : State) (i : Image) : (s.install i).table = i :=
  State.table_eq_iff.2 ⟨rfl, rfl, fun r => by
    simp [State.install, State.copyHeader, State.ring, Ring.install]⟩

theorem State.leaveLoading_table (s : State) (o : Origin) : (s.leaveLoading o).table = s.table := by
  cases o <;> rfl

theorem State.finishLoad_cases (s : State) (l : Load) (staging : List Byte) :
    (s.finishLoad l staging).table = s.table ∨ (s.finishLoad l staging).table.Consistent := by
  unfold State.finishLoad
  split
  · exact Or.inl (s.failLoad_table _)
  · next i valid =>
    refine Or.inr ?_
    have installed : (((s.install i).leaveLoading l.origin).completeLoad).table = i := by
      rw [State.completeLoad_eq]
      exact ((s.install i).leaveLoading_table l.origin).trans (s.install_table i)
    rw [installed]
    exact validate_consistent valid

/-- The end of a load leaves the live table or installs an image that has passed every check (R179, R180). -/
theorem execTableReadResult_cases (h : execTableReadResult s = .next t) : t.table = s.table ∨ t.table.Consistent := by
  unfold execTableReadResult at h
  split at h
  · dsimp only at h
    split at h <;> cases h
    · unfold State.tableReadDone
      split
      · exact Or.inl rfl
      · exact State.finishLoad_cases _ _ _
    · exact Or.inl (State.failLoad_table _ _)
    · exact Or.inl (State.failLoad_table _ _)
  · cases h
    exact Or.inl rfl

end Commands

end Sys2Proof.Machine

namespace Sys2Proof.Machine

/-! ### What one command can do to the live table -/

/-- What a command may leave of the live table: the table as it stood; one entry, the header or one ring's configuration replaced by the command
of that edit, with its check passed; a consistent table at the end of a load; the reset table (R1, R24). -/
inductive State.TableStep (s t : State) : Instr → Prop
  | kept {c : Instr} (same : t.table = s.table) : TableStep s t c
  | window {b : Byte} {e : WindowWords} (w : WindowNo) (formed : winWellFormed e = true)
      (clear : s.editConflicts w e = false) (edited : t.table = { s.table with windows := s.windows.put w e }) :
      TableStep s t (.writeWindow b e)
  | header {ws : Tbl Word 14} (h : Header) (bound : noticeBound s.windows h.noticeRing = true)
      (edited : t.table = { s.table with header := h }) : TableStep s t (.writeHeader ws)
  | ring {b : Byte} {rec : RingWords} (r : RingNo) (k : RingConfig) (fits : s.sizeConflicts r k = false)
      (edited : t.table = { s.table with configs := s.table.configs.put r k }) : TableStep s t (.writeRing b rec)
  | load (consistent : t.table.Consistent) : TableStep s t .tableReadResult
  | assert (values : t.table = State.reset.table) : TableStep s t .resetNAssert
  | reset {st : Straps} (values : t.table = State.reset.table) : TableStep s t (.reset st)

section Inversion

variable {s t : State}

theorem execWriteHeader_tableStep {w : Tbl Word 14} (h : execWriteHeader w s = .next t) :
    s.TableStep t (.writeHeader w) := by
  cases h
  obtain ⟨ml, h | h⟩ := s.takeCommand_cases 0x03 (ownWriteHeader w) <;> rw [h]
  · exact .kept rfl
  · rcases ownWriteHeader_cases w s.framed with same | ⟨x, bound, edited⟩
    · rw [same]
      exact .kept rfl
    · exact .header x bound edited

theorem execWriteWindow_tableStep {b : Byte} {e : WindowWords} (h : execWriteWindow b e s = .next t) :
    s.TableStep t (.writeWindow b e) := by
  cases h
  obtain ⟨ml, h | h⟩ := s.takeCommand_cases 0x05 (ownWriteWindow b e) <;> rw [h]
  · exact .kept rfl
  · rcases ownWriteWindow_cases b e s.framed with same | ⟨w, formed, clear, edited⟩
    · rw [same]
      exact .kept rfl
    · exact .window w formed clear edited

theorem execWriteRing_tableStep {b : Byte} {rec : RingWords} (h : execWriteRing b rec s = .next t) :
    s.TableStep t (.writeRing b rec) := by
  cases h
  obtain ⟨ml, h | h⟩ := s.takeCommand_cases 0x07 (ownWriteRing b rec) <;> rw [h]
  · exact .kept rfl
  · rcases ownWriteRing_cases b rec s.framed with same | ⟨r, k, fits, edited⟩
    · rw [same]
      exact .kept rfl
    · exact .ring r k fits edited

theorem execReset_tableStep {st : Straps} (h : execReset st s = .next t) : s.TableStep t (.reset st) := by
  cases h
  obtain ⟨ml, h | h⟩ := s.takeCommand_cases 0x18 (ownReset st s.ml.frame) <;> rw [h]
  · exact .kept rfl
  · exact .reset ((State.setMl_table _ ml).trans (ownReset_table st s.ml.frame s.framed))

theorem execTableReadResult_tableStep (h : execTableReadResult s = .next t) : s.TableStep t .tableReadResult :=
  (execTableReadResult_cases h).elim .kept .load

/-- Every command keeps the live table, or is one of those that may change it. -/
theorem exec_tableStep {c : Instr} (h : exec c s = .next t) : s.TableStep t c := by
  cases c with
  | upstreamRequest => exact .kept (execUpstreamRequest_handled h).table
  | admission => exact .kept (execAdmission_handled h).table
  | replay => exact .kept (execReplay_handled h).table
  | queueJoin => exact .kept (execQueueJoin_table h)
  | downstreamDone => exact .kept (execDownstreamDone_table h)
  | downstreamRetry => exact .kept (execDownstreamRetry_table h)
  | downstreamFault => exact .kept (execDownstreamFault_table h)
  | responseTimeout => exact .kept (execResponseTimeout_table h)
  | settlingEnd => exact .kept (execSettlingEnd_table h)
  | passResult => exact .kept (execPassResult_handled h).table
  | ringProducerDone => exact .kept (execRingProducerDone_handled h).table
  | ringConsumerDone => exact .kept (execRingConsumerDone_handled h).table
  | ringAccessFailed => exact .kept (execRingAccessFailed_handled h).table
  | noticeWriteResult => exact .kept (execNoticeWriteResult_table h)
  | cadenceCommit => exact .kept (execCadenceCommit_table h)
  | watchExpiry => exact .kept (execWatchExpiry_table h)
  | tick => exact .kept (execTick_table h)
  | ringParkExpiry => exact .kept (execRingParkExpiry_handled h).table
  | claimParkExpiry => exact .kept (execClaimParkExpiry_handled h).table
  | millisecondStep => exact .kept (execMillisecondStep_table h)
  | leaseExpiry => exact .kept (execLeaseExpiry_handled h).table
  | noticeHandoff => exact .kept (execNoticeHandoff_table h)
  | tableReadResult => exact execTableReadResult_tableStep h
  | runEntryRings => exact .kept (execRunEntryRings_table h)
  | runEntryNotices => exact .kept (execRunEntryNotices_handled h).table
  | stopRings => exact .kept (execStopRings_handled h).table
  | stopPool => exact .kept (execStopPool_handled h).table
  | stopCells => exact .kept (execStopCells_handled h).table
  | stopCadence => exact .kept (execStopCadence_table h)
  | cadenceRingStart => exact .kept (execCadenceRingStart_table h)
  | poolCancelRingStop => exact .kept (execPoolCancelRingStop_handled h).table
  | poolCancelFreeze => exact .kept (execPoolCancelFreeze_handled h).table
  | dropOwnerships => exact .kept (execDropOwnerships_handled h).table
  | headerCopy => exact .kept (execHeaderCopy_table h)
  | resetNAssert => cases h; exact .assert rfl
  | resetNRelease => exact .kept (execResetNRelease_table h)
  | commandFrameMalformed => exact .kept (execCommandFrameMalformed_table h)
  | poll => exact .kept (execPoll_table h)
  | status => exact .kept (shortCommand_table (fun _ => rfl) h)
  | readHeader => exact .kept (shortCommand_table (fun _ => rfl) h)
  | writeHeader => exact execWriteHeader_tableStep h
  | readWindow b => exact .kept (shortCommand_table (ownReadWindow_table b) h)
  | writeWindow => exact execWriteWindow_tableStep h
  | readRing b => exact .kept (shortCommand_table (ownReadRing_table b) h)
  | writeRing => exact execWriteRing_tableStep h
  | ringStart b => exact .kept (shortCommand_table (ownRingStart_table b) h)
  | ringStop b => exact .kept (shortCommand_table (ownRingStop_table b) h)
  | readCell b => exact .kept (shortCommand_table (ownReadCell_table b) h)
  | freeCell b => exact .kept (shortCommand_table (ownFreeCell_table b) h)
  | readMaster b => exact .kept (shortCommand_table (ownReadMaster_table b) h)
  | setPriority b p => exact .kept (shortCommand_table (ownSetPriority_table b p) h)
  | dropMaster b => exact .kept (shortCommand_table (ownDropMaster_table b) h)
  | reopenMaster b => exact .kept (shortCommand_table (ownReopenMaster_table b) h)
  | readPool => exact .kept (shortCommand_table (fun _ => rfl) h)
  | takeNotice => exact .kept (shortCommand_table ownTakeNotice_table h)
  | setMask mask => exact .kept (shortCommand_table (ownSetMask_table mask) h)
  | clearStall => exact .kept (shortCommand_table ownClearStall_table h)
  | clearLost => exact .kept (shortCommand_table (fun _ => rfl) h)
  | stop => exact .kept (shortCommand_table ownStop_table h)
  | start => exact .kept (shortCommand_table ownStart_table h)
  | load addr => exact .kept (shortCommand_table (ownLoad_table addr s.ml.frame) h)
  | reset => exact execReset_tableStep h

theorem State.TableStep.keeps_consistent {c : Instr} (h : s.TableStep t c) (hs : s.table.Consistent) :
    t.table.Consistent := by
  cases h with
  | kept same => rwa [same]
  | window w formed clear edited => rw [edited]; exact hs.putWindow formed clear
  | header x bound edited => rw [edited]; exact hs.putHeader bound
  | ring r k fits edited => rw [edited]; exact hs.putConfig fits
  | load consistent => exact consistent
  | assert values => rw [values]; exact State.reset_table_consistent
  | reset values => rw [values]; exact State.reset_table_consistent

end Inversion

end Sys2Proof.Machine

namespace Sys2Proof.Proofs

open Sys2Proof.Machine

/-- Settles O11: each of the few changes that `State.TableStep` allows keeps the conditions. -/
theorem tableConsistencyKept : Obligations.TableConsistencyKept := by
  intro s t law h
  rw [State.tableLaw_iff] at law ⊢
  unfold step at h
  split at h
  · cases h
    rwa [State.idle_table]
  · exact (exec_tableStep h).keeps_consistent law

/-- Settles O13: by what `State.TableStep` allows each command. -/
theorem tableChangesOnlyByItsCommands : Obligations.TableChangesOnlyByItsCommands := by
  intro c s t h noLoad noAssert noReset
  cases exec_tableStep h with
  | kept same =>
    obtain ⟨header, windows, configs⟩ := State.table_eq_iff.1 same
    exact ⟨fun _ => windows, fun _ => header, fun _ r => (configs r).trans (s.table_configs r)⟩
  | window w formed clear edited =>
    obtain ⟨header, -, configs⟩ := State.table_eq_iff.1 edited
    exact ⟨fun other => absurd rfl (other _ _), fun _ => header, fun _ r => (configs r).trans (s.table_configs r)⟩
  | header x bound edited =>
    obtain ⟨-, windows, configs⟩ := State.table_eq_iff.1 edited
    exact ⟨fun _ => windows, fun other => absurd rfl (other _), fun _ r => (configs r).trans (s.table_configs r)⟩
  | ring r k fits edited =>
    obtain ⟨header, windows, -⟩ := State.table_eq_iff.1 edited
    exact ⟨fun _ => windows, fun _ => header, fun other => absurd rfl (other _ _)⟩
  | load => exact absurd rfl noLoad
  | assert => exact absurd rfl noAssert
  | reset => exact absurd rfl (noReset _)

end Sys2Proof.Proofs

namespace Sys2Proof.Machine

/-! ### The laws at reset -/

theorem Ring.law_reset : Ring.reset.law :=
  ⟨Or.inl rfl, fun h => absurd rfl h, Nat.le_refl _, rfl, fun h => absurd rfl h, fun _ => rfl, fun _ => rfl,
    fun _ h => (by cases h), fun _ h => (by cases h)⟩

theorem State.reset_ring (r : RingNo) : State.reset.ring r = Ring.reset := Tbl.nth_all _ r

theorem State.reset_cell (c : CellNo) : State.reset.cell c = Cell.reset := Tbl.nth_all _ c

theorem State.reset_master (m : MasterNo) : State.reset.master m = Master.reset := Tbl.nth_all _ m

theorem State.reset_ringLaws : State.reset.ringLaws := fun r => by
  rw [State.reset_ring]
  exact Ring.law_reset

theorem State.reset_not_woken (m : MasterNo) (k : Woken) : ¬ State.reset.wokenWith m k := by
  rintro ⟨rq, h⟩
  rw [State.reset_master] at h
  cases h

theorem State.reset_poolLaw : State.reset.poolLaw := by
  refine ⟨⟨Nat.zero_le _, List.nodup_nil, List.nodup_nil, fun _ he => ?_⟩, List.Pairwise.nil, fun _ he => ?_,
    fun m k h => absurd h (State.reset_not_woken m k), fun m _ k _ _ h => absurd h (State.reset_not_woken m k)⟩
  all_goals cases he

theorem State.reset_cellLaw : State.reset.cellLaw := by
  refine ⟨fun c _ => ?_, fun _ he => ?_, fun c m h => ?_⟩
  · rw [State.reset_cell]
    rfl
  · cases he
  · rw [State.reset_cell] at h
    cases h

theorem State.reset_partLaw : State.reset.partLaw := by
  refine ⟨⟨fun _ => Or.inl rfl, fun _ => rfl⟩, ⟨fun h => ?_, fun h => ?_⟩, fun p h => ?_⟩
  all_goals cases h

end Sys2Proof.Machine

namespace Sys2Proof.Proofs

open Sys2Proof.Machine

/-- Settles O6: law by law, each table holding one reset record everywhere. -/
theorem lawsHoldAtReset : Obligations.LawsHoldAtReset :=
  ⟨State.reset_ringLaws, State.reset_poolLaw, State.reset_cellLaw, Nat.zero_le _, fun _ => rfl, State.reset_partLaw,
    (State.tableLaw_iff _).2 State.reset_table_consistent⟩

end Sys2Proof.Proofs

namespace Sys2Proof.Machine

/-! ### The verdicts of admission (R12) -/

section Admission

variable {s : State} {m : MasterNo} {rq : Request} {w : WindowNo}

/-- What breaks R8, as the statements give it: a fetch into a BLOCK window is no class failure (log 34). -/
theorem classAccepted_eq_false {e : WindowWords}
    (h : (winPriv e = true ∧ rq.priv = false) ∨
      (rq.fetch = true ∧ (winKind e = .ring ∨ winKind e = .claim ∨ (winKind e = .pass ∧ winFetch e = false)))) :
    classAccepted e rq = false := by
  rcases h with ⟨hp, hq⟩ | ⟨hf, hk | hk | ⟨hk, hw⟩⟩
  · simp [classAccepted, hp, hq]
  · simp [classAccepted, hf, hk]
  · simp [classAccepted, hf, hk]
  · simp [classAccepted, hf, hk, hw]

theorem State.judge_notRunning (h : s.part ≠ .running) : s.judge m rq = .fault .notReady none := by
  simp [State.judge, h]

theorem State.judge_masterZero (h : s.part = .running) : s.judge 0 rq = .fault .badMaster none := by
  simp [State.judge, h]

theorem State.judge_fenced (h : s.part = .running) (hm : m ≠ 0) (hs : (s.master m).state = .fenced) :
    s.judge m rq = .fault .fenced none := by
  simp [State.judge, h, hm, hs]

theorem State.judge_unwindowed_closed (h : s.part = .running) (hm : m ≠ 0) (hs : (s.master m).state = .opened)
    (hw : ∀ w, winValid (s.window w) = true → winHolds (s.window w) rq.addr = false)
    (hc : s.header.policy = .closed) : s.judge m rq = .fault .noWindow none := by
  simp [State.judge, h, hm, hs, State.findWindow_none s hw, hc]

theorem State.judge_unwindowed_open (h : s.part = .running) (hm : m ≠ 0) (hs : (s.master m).state = .opened)
    (hw : ∀ w, winValid (s.window w) = true → winHolds (s.window w) rq.addr = false)
    (ho : s.header.policy = .open) : s.judge m rq = .forward none := by
  simp [State.judge, h, hm, hs, State.findWindow_none s hw, ho]

theorem State.judge_class (h : s.part = .running) (hm : m ≠ 0) (hs : (s.master m).state = .opened)
    (hw : s.findWindow rq.addr = some w) (hc : classAccepted (s.window w) rq = false) :
    s.judge m rq = .fault .cls (some w) := by
  simp [State.judge, h, hm, hs, hw, hc]

theorem State.judge_block (h : s.reaches m rq w) (hk : winKind (s.window w) = .block) :
    s.judge m rq = .fault .blocked (some w) := by
  simp [State.judge_reaches s h, State.judgeKind, hk]

theorem State.judge_pass (h : s.reaches m rq w) (hk : winKind (s.window w) = .pass) :
    s.judge m rq =
      if winMember (s.window w) rq.dir m then .forward (some w) else .fault .access (some w) := by
  simp [State.judge_reaches s h, State.judgeKind, hk]

/-- NOT_READY is answered without a notice (R13). -/
theorem State.admission_of_notReady (h : (s.master m).outst = .admitting rq) (hp : s.part ≠ .running) :
    exec (.admission m) s = .next (s.answered m (.fault .notReady)) := by
  rw [State.exec_admission s h, State.takeAdmission, State.begin_judge, State.judge_notRunning hp]
  simp only [State.admissionFault, if_true, State.dropReservation]
  rw [State.begin_answer s m _ (Outstanding.ne_none_of_admitting h)]

/-- A request that admission forwards goes downstream unchanged, its phase QUEUED (R14). -/
theorem State.admission_of_forward {v : Option WindowNo} (h : (s.master m).outst = .admitting rq)
    (hj : s.judge m rq = .forward v) :
    exec (.admission m) s = .next ((s.phased m (.queued rq)).joined (forwarded m rq (.pass v))) := by
  rw [State.exec_admission s h, State.takeAdmission, State.begin_judge, hj]
  simp only [State.dropReservation]
  rw [State.forward_eq s.begin m rq _ (Outstanding.ne_none_of_admitting h)]
  rfl

/-! ### The result of a PASS request (R14, R144) -/

variable {x : DownResult} {v : Option WindowNo} {pre post : List DownResult}

theorem DownResult.forPass_iff (m : MasterNo) (x : DownResult) :
    x.forPass m = true ↔ x.entry.source = .master m ∧ ∃ v, x.entry.purpose = .pass v := by
  cases hp : x.entry.purpose <;> simp [DownResult.forPass, hp]

/-- The oldest result of the master's PASS request is taken, the master answered, and a failure noticed. -/
theorem State.exec_passResult (hr : s.hand.results = pre ++ x :: post) (hs : x.entry.source = .master m)
    (hp : x.entry.purpose = .pass v)
    (hpre : ∀ y ∈ pre, y.entry.source = .master m → ∀ v, y.entry.purpose ≠ .pass v)
    (ho : (s.master m).outst = .inFlight rq) :
    exec (.passResult m) s =
      .next
        (let u := { s.answered m x.ending.toAnswer with hand := { s.hand with results := pre ++ post } }
         if x.ending.isDone then u else u.noticed (faultNotice x.ending.reason m x.entry.addr v .none)) := by
  have taken : x.forPass m = true := (x.forPass_iff m).2 ⟨hs, v, hp⟩
  have older : ∀ y ∈ pre, y.forPass m = false := fun y hy => by
    rw [← Bool.not_eq_true, y.forPass_iff]
    rintro ⟨hys, v, hyp⟩
    exact hpre y hy hys v hyp
  have rest : s.begin.takeResult (DownResult.forPass m) = s.begin.setHand { s.hand with results := pre ++ post } := by
    show s.begin.setHand { s.hand with results := s.hand.results.eraseP _ } = _
    rw [eraseP_of_split hr taken older]
  have answered : (s.begin.setHand { s.hand with results := pre ++ post }).answerSource (.master m) x.ending.toAnswer =
      { s.answered m x.ending.toAnswer with hand := { s.hand with results := pre ++ post } } := by
    have flight : ((s.begin.setHand { s.hand with results := pre ++ post }).master m).outst = .inFlight rq := ho
    simp only [State.answerSource, flight]
    rw [State.answer_eq _ m _ (by rw [flight]; simp)]
    rfl
  simp only [exec, execPassResult, find?_of_split hr taken older, rest, hs, answered]
  split
  · rfl
  · simp only [State.noticeSource, hs, hp, Purpose.window]
    rfl

end Admission

end Sys2Proof.Machine

namespace Sys2Proof.Proofs

open Sys2Proof.Machine

/-- Settles O17: each failing check gives its verdict, and a verdict other than NOT_READY its notice. -/
theorem admissionFaultsInOrder : Obligations.AdmissionFaultsInOrder := by
  intro m rq s h
  refine ⟨fun hp => State.admission_of_notReady h hp, fun hp hm => ?_, fun hp hm hs => ?_, fun hp hm hs hw hc => ?_,
    fun w hp hm hs hw hc => ?_, fun w hr hk => ?_, fun w hr hk ha => ?_⟩
  · subst hm
    exact s.admission_of_fault h (State.judge_masterZero hp) (by decide)
  · exact s.admission_of_fault h (State.judge_fenced hp hm hs) (by decide)
  · exact s.admission_of_fault h (State.judge_unwindowed_closed hp hm hs hw hc) (by decide)
  · exact s.admission_of_fault h (State.judge_class hp hm hs hw (classAccepted_eq_false hc)) (by decide)
  · exact s.admission_of_fault h (State.judge_block hr hk) (by decide)
  · exact s.admission_of_fault h (by rw [State.judge_pass hr hk, ha]; rfl) (by decide)

/-- Settles O18: both verdicts forward the request. -/
theorem passRequestsForwarded : Obligations.PassRequestsForwarded := by
  intro m rq s h
  refine ⟨fun w hr hk ha => ?_, fun hp hm hs hw ho => ?_⟩
  · exact State.admission_of_forward h (by rw [State.judge_pass hr hk, ha]; rfl)
  · exact State.admission_of_forward h (State.judge_unwindowed_open hp hm hs hw ho)

/-- Settles O35: the three endings of the one result that is taken. -/
theorem passResultsAnswered : Obligations.PassResultsAnswered := by
  intro m rq x w pre post s hr hs hp hpre ho
  have taken := State.exec_passResult hr hs hp hpre ho
  refine ⟨fun data he => ?_, fun he => ?_, fun he => ?_⟩
  all_goals
    rw [he] at taken
    exact taken

end Sys2Proof.Proofs

namespace Sys2Proof.Machine

/-! ### The commands that edit the live table, check by check -/

section Editing

variable {s u : State}

theorem shortCommand_refused (h : s.linkReady) {code : Byte} {owner : State → Reply} {st : Status}
    (ho : owner s.framed = refuse s.framed st) : shortCommand code owner s = .next (s.responded code st []) :=
  congrArg _ (State.takeCommand_refused h code owner st ho)

theorem shortCommand_accepted (h : s.linkReady) {code : Byte} {owner : State → Reply} (ho : owner s.framed = accept u)
    (hu : u.ml = s.framed.ml) : shortCommand code owner s = .next { u with ml := s.linkAfter code .ok [] } :=
  congrArg _ (State.takeCommand_state h code owner .ok [] u ho hu)

/-! WRITE_HEADER (R22) -/

variable {w : Tbl Word 14} {x : Header}

theorem ownWriteHeader_badState (h : u.part ≠ .halted) : ownWriteHeader w u = refuse u .badState := by
  simp [ownWriteHeader, h]

theorem ownWriteHeader_badArg (h : u.part = .halted) (hx : decodeHeader u.header.format u.header.balance w = none) :
    ownWriteHeader w u = refuse u .badArg := by
  simp [ownWriteHeader, h, hx]

theorem ownWriteHeader_conflict (h : u.part = .halted) (hx : decodeHeader u.header.format u.header.balance w = some x)
    (hn : noticeBound u.windows x.noticeRing = false) : ownWriteHeader w u = refuse u .conflict := by
  simp [ownWriteHeader, h, hx, hn]

theorem ownWriteHeader_accept (h : u.part = .halted) (hx : decodeHeader u.header.format u.header.balance w = some x)
    (hn : noticeBound u.windows x.noticeRing = true) :
    ownWriteHeader w u = accept (({ u with header := x }).setHand { u.hand with headerCopy := true }) := by
  simp [ownWriteHeader, h, hx, hn]

/-! WRITE_WINDOW (R18 to R21) -/

variable {b : Byte} {e : WindowWords} {v : WindowNo}

theorem PartState.not_live_iff {p : PartState} : (p ≠ .running ∧ p ≠ .halted) ↔ p = .loading ∨ p = .reset := by
  cases p <;> decide

theorem PartState.live_iff {p : PartState} : ¬ (p ≠ .running ∧ p ≠ .halted) ↔ p = .running ∨ p = .halted := by
  cases p <;> decide

theorem ownWriteWindow_badState (h : u.part = .loading ∨ u.part = .reset) :
    ownWriteWindow b e u = refuse u .badState := by
  rw [ownWriteWindow, if_pos (PartState.not_live_iff.2 h)]

theorem ownWriteWindow_badArg (h : u.part = .running ∨ u.part = .halted) (hb : 32 ≤ b.toNat ∨ winWellFormed e = false) :
    ownWriteWindow b e u = refuse u .badArg := by
  rw [ownWriteWindow, if_neg (PartState.live_iff.2 h)]
  rcases hb with hb | he
  · rw [numArg_big hb]
  · split
    · rfl
    · simp [he]

/-- A well-formed entry for a window in range is judged by R19, then in RUNNING by R20. -/
theorem ownWriteWindow_wellFormed (h : u.part = .running ∨ u.part = .halted) (he : winWellFormed e = true) :
    ownWriteWindow (BitVec.ofNat 8 v.val) e u =
      if u.editConflicts v e then refuse u .conflict
      else if u.part = .running ∧ u.editBusy v e = true then refuse u .busy
      else accept (u.setWindow v e) := by
  rw [ownWriteWindow, if_neg (PartState.live_iff.2 h), numArg_val v (by decide)]
  simp [he]

/-! WRITE_RING (R50) -/

variable {rec : RingWords} {r : RingNo} {k : RingConfig}

theorem ownWriteRing_badState (h : u.part = .loading ∨ u.part = .reset) :
    ownWriteRing b rec u = refuse u .badState := by
  rw [ownWriteRing, if_pos (PartState.not_live_iff.2 h)]

theorem ownWriteRing_badArg (h : u.part = .running ∨ u.part = .halted)
    (hb : 8 ≤ b.toNat ∨ decodeRingConfig rec = none) : ownWriteRing b rec u = refuse u .badArg := by
  rw [ownWriteRing, if_neg (PartState.live_iff.2 h)]
  rcases hb with hb | hr
  · rw [numArg_big hb]
  · simp [hr]

/-- A well-formed record for a ring in range is judged by the ring's state, its window's size and its lanes. -/
theorem ownWriteRing_wellFormed (h : u.part = .running ∨ u.part = .halted) (hk : decodeRingConfig rec = some k) :
    ownWriteRing (BitVec.ofNat 8 r.val) rec u =
      if (u.ring r).state ≠ .off then refuse u .badState
      else if u.sizeConflicts r k then refuse u .conflict
      else if (u.ring r).producer ≠ .free ∨ (u.ring r).consumer ≠ .free then refuse u .busy
      else accept ((u.setRing r { (u.ring r).zeroCursors with cfg := k }).stopWatch r) := by
  rw [ownWriteRing, if_neg (PartState.live_iff.2 h), numArg_val r (by decide), hk]

theorem State.sizeConflicts_iff :
    u.sizeConflicts r k = true ↔ ∃ w, u.boundWindow r = some w ∧ winSize (u.window w) ≠ k.bytes := by
  unfold State.sizeConflicts
  split
  · next w hw => simp [hw]
  · next hw => simp [hw]

/-! ### A well-formed edit as the link takes it -/

theorem exec_writeWindow_wellFormed (hs : s.linkReady) (h : s.part = .running ∨ s.part = .halted)
    (he : winWellFormed e = true) :
    exec (.writeWindow (BitVec.ofNat 8 v.val) e) s =
      .next
        (if s.editConflicts v e then s.responded 0x05 .conflict []
        else if s.part = .running ∧ s.editBusy v e = true then s.responded 0x05 .busy []
        else { s.responded 0x05 .ok [] with windows := s.windows.put v e }) := by
  have judged : ownWriteWindow (BitVec.ofNat 8 v.val) e s.framed =
      if s.editConflicts v e then refuse s.framed .conflict
      else if s.part = .running ∧ s.editBusy v e = true then refuse s.framed .busy
      else accept (s.framed.setWindow v e) := ownWriteWindow_wellFormed h he
  split
  · next conflict =>
    rw [if_pos conflict] at judged
    exact shortCommand_refused hs judged
  · next clear =>
    rw [if_neg clear] at judged
    split
    · next busy =>
      rw [if_pos busy] at judged
      exact shortCommand_refused hs judged
    · next quiet =>
      rw [if_neg quiet] at judged
      exact shortCommand_accepted hs judged rfl

theorem exec_writeRing_wellFormed (hs : s.linkReady) (h : s.part = .running ∨ s.part = .halted)
    (hk : decodeRingConfig rec = some k) :
    exec (.writeRing (BitVec.ofNat 8 r.val) rec) s =
      .next
        (if (s.ring r).state ≠ .off then s.responded 0x07 .badState []
        else if s.sizeConflicts r k then s.responded 0x07 .conflict []
        else if (s.ring r).producer ≠ .free ∨ (s.ring r).consumer ≠ .free then s.responded 0x07 .busy []
        else
          { s.responded 0x07 .ok [] with
            rings := s.rings.put r { s.ring r with cfg := k, wi := 0, wo := 0, ri := 0, ro := 0, fill := 0 },
            cadence := s.cadence.put r { s.cad r with watch := none } }) := by
  have judged : ownWriteRing (BitVec.ofNat 8 r.val) rec s.framed =
      if (s.ring r).state ≠ .off then refuse s.framed .badState
      else if s.sizeConflicts r k then refuse s.framed .conflict
      else if (s.ring r).producer ≠ .free ∨ (s.ring r).consumer ≠ .free then refuse s.framed .busy
      else accept ((s.framed.setRing r { (s.ring r).zeroCursors with cfg := k }).stopWatch r) :=
    ownWriteRing_wellFormed h hk
  split
  · next on =>
    rw [if_pos on] at judged
    exact shortCommand_refused hs judged
  · next off =>
    rw [if_neg off] at judged
    split
    · next conflict =>
      rw [if_pos conflict] at judged
      exact shortCommand_refused hs judged
    · next fits =>
      rw [if_neg fits] at judged
      split
      · next busy =>
        rw [if_pos busy] at judged
        exact shortCommand_refused hs judged
      · next free =>
        rw [if_neg free] at judged
        exact shortCommand_accepted hs judged rfl

end Editing

end Sys2Proof.Machine

namespace Sys2Proof.Proofs

open Sys2Proof.Machine

/-- Settles O58: the owner's answer check by check, carried through the link. -/
theorem editsCheckedInOrderThenMade : Obligations.EditsCheckedInOrderThenMade := by
  intro s hs
  refine ⟨fun w => ⟨fun hp => ?_, fun hp hx => ?_, fun h hp hx => ⟨fun hn => ?_, fun hn => ?_⟩⟩,
    fun b e => ⟨fun hp => ?_, fun hp => ⟨fun hb => ?_, fun w hb he => ?_⟩⟩,
    fun b rec => ⟨fun hp => ?_, fun hp => ⟨fun hb => ?_, fun r k hb hk => ?_⟩⟩⟩
  · exact shortCommand_refused hs (ownWriteHeader_badState hp)
  · exact shortCommand_refused hs (ownWriteHeader_badArg hp hx)
  · exact shortCommand_refused hs (ownWriteHeader_conflict hp hx hn)
  · obtain ⟨-, format, balance⟩ := decodeHeader_inRange hx
    exact ⟨format, balance, shortCommand_accepted hs (ownWriteHeader_accept hp hx hn) rfl⟩
  · exact shortCommand_refused hs (ownWriteWindow_badState hp)
  · exact shortCommand_refused hs (ownWriteWindow_badArg hp hb)
  · rw [hb, exec_writeWindow_wellFormed hs hp he]
    refine ⟨fun conflict => ?_, fun clear running busy => ?_, fun clear quiet => ?_⟩
    · simp [conflict]
    · simp [clear, running, busy]
    · rcases quiet with halted | idle
      · simp [clear, halted]
      · simp [clear, idle]
  · exact shortCommand_refused hs (ownWriteRing_badState hp)
  · exact shortCommand_refused hs (ownWriteRing_badArg hp hb)
  · rw [hb, exec_writeRing_wellFormed hs hp hk]
    refine ⟨fun on => ?_, fun off => ⟨fun w hw size => ?_, fun fits => ?_⟩⟩
    · simp [on]
    · have conflict : s.sizeConflicts r k = true := State.sizeConflicts_iff.2 ⟨w, hw, size⟩
      simp [off, conflict]
    · have clear : ¬ s.sizeConflicts r k = true := fun conflict => by
        obtain ⟨w, hw, size⟩ := State.sizeConflicts_iff.1 conflict
        exact size (fits w hw)
      refine ⟨fun busy => ?_, fun producer consumer => ?_⟩
      · rcases busy with busy | busy <;> simp [off, clear, busy]
      · simp [off, clear, producer, consumer]

end Sys2Proof.Proofs

namespace Sys2Proof

/-! ### The fields of a word -/

variable {b0 b1 b2 b3 : Byte}

theorem getLsbD_wordOf (i : Nat) :
    (wordOf b0 b1 b2 b3).getLsbD i =
      if i < 8 then b0.getLsbD i else if i < 16 then b1.getLsbD (i - 8)
      else if i < 24 then b2.getLsbD (i - 16) else b3.getLsbD (i - 24) := by
  simp only [wordOf, BitVec.getLsbD_append]
  by_cases h0 : i < 8
  · simp only [h0, if_true]
  · by_cases h1 : i < 16
    · simp only [h0, h1, show i - 8 < 8 by omega, if_true, if_false]
    · by_cases h2 : i < 24
      · simp only [h0, h1, h2, show ¬ i - 8 < 8 by omega, show i - 8 - 8 = i - 16 by omega, show i - 16 < 8 by omega,
          if_true, if_false]
      · simp only [h0, h1, h2, show ¬ i - 8 < 8 by omega, show i - 8 - 8 = i - 16 by omega, show ¬ i - 16 < 8 by omega,
          show i - 16 - 8 = i - 24 by omega, if_false]

theorem extract_wordOf_byte0 (k n : Nat) (h : k + n ≤ 8) :
    (wordOf b0 b1 b2 b3).extractLsb' k n = b0.extractLsb' k n := by
  apply BitVec.eq_of_getLsbD_eq
  intro i hi
  rw [BitVec.getLsbD_extractLsb', BitVec.getLsbD_extractLsb', getLsbD_wordOf, if_pos (by omega)]

theorem extract_wordOf_byte1 (k n : Nat) (h : k + n ≤ 8) :
    (wordOf b0 b1 b2 b3).extractLsb' (8 + k) n = b1.extractLsb' k n := by
  apply BitVec.eq_of_getLsbD_eq
  intro i hi
  rw [BitVec.getLsbD_extractLsb', BitVec.getLsbD_extractLsb', getLsbD_wordOf, if_neg (by omega), if_pos (by omega),
    show 8 + k + i - 8 = k + i by omega]

theorem extract_wordOf_byte2 (k n : Nat) (h : k + n ≤ 8) :
    (wordOf b0 b1 b2 b3).extractLsb' (16 + k) n = b2.extractLsb' k n := by
  apply BitVec.eq_of_getLsbD_eq
  intro i hi
  rw [BitVec.getLsbD_extractLsb', BitVec.getLsbD_extractLsb', getLsbD_wordOf, if_neg (by omega), if_neg (by omega),
    if_pos (by omega), show 16 + k + i - 16 = k + i by omega]

theorem extract_wordOf_byte3 (k n : Nat) :
    (wordOf b0 b1 b2 b3).extractLsb' (24 + k) n = b3.extractLsb' k n := by
  apply BitVec.eq_of_getLsbD_eq
  intro i hi
  rw [BitVec.getLsbD_extractLsb', BitVec.getLsbD_extractLsb', getLsbD_wordOf, if_neg (by omega), if_neg (by omega),
    if_neg (by omega), show 24 + k + i - 24 = k + i by omega]

theorem extract_wordOf_high : (wordOf b0 b1 b2 b3).extractLsb' 16 16 = b3 ++ b2 := by
  apply BitVec.eq_of_getLsbD_eq
  intro i hi
  rw [BitVec.getLsbD_extractLsb', getLsbD_wordOf, BitVec.getLsbD_append, if_neg (by omega), if_neg (by omega)]
  by_cases h : i < 8
  · rw [if_pos (by omega), if_pos h, show 16 + i - 16 = i by omega]
    simp [hi]
  · rw [if_neg (by omega), if_neg h, show 16 + i - 24 = i - 8 by omega]
    simp [hi]

/-- A field that was extended with zeros is read back. -/
theorem extract_zeroExtend {n k : Nat} (x : BitVec n) (h : n ≤ k) : (x.zeroExtend k).extractLsb' 0 n = x := by
  apply BitVec.eq_of_getLsbD_eq
  intro i hi
  simp [hi, show i < k by omega]

theorem extract_zeroExtend_above {n j k : Nat} (x : BitVec n) : (x.zeroExtend k).extractLsb' n j = 0 := by
  apply BitVec.eq_of_getLsbD_eq
  intro i hi
  simp

theorem extract_ofNat {n : Nat} (a b : Nat) (h : n < 2 ^ 32) :
    ((BitVec.ofNat 32 n).extractLsb' a b).toNat = n / 2 ^ a % 2 ^ b := by
  rw [BitVec.extractLsb'_toNat, BitVec.toNat_ofNat, Nat.mod_eq_of_lt h, Nat.shiftRight_eq_div_pow]

theorem getLsbD_ofNat_div {n : Nat} (i : Nat) (hi : i < 32) :
    (BitVec.ofNat 32 n).getLsbD i = decide (n / 2 ^ i % 2 = 1) := by
  rw [BitVec.getLsbD_ofNat, Nat.testBit_eq_decide_div_mod_eq]
  simp [hi]

end Sys2Proof

namespace Sys2Proof.Machine

/-! ### The header's layout (R2, R206) -/

theorem getLsbD_foldl_or {α : Type} (skip : α → Prop) [DecidablePred skip] (f : α → Word) (i : Nat) :
    ∀ (l : List α) (acc : Word),
      (l.foldl (fun acc m => if skip m then acc else acc ||| f m) acc).getLsbD i = true ↔
        acc.getLsbD i = true ∨ ∃ m ∈ l, ¬ skip m ∧ (f m).getLsbD i = true
  | [], acc => by simp
  | m :: l, acc => by
    rw [List.foldl_cons, getLsbD_foldl_or skip f i l, List.exists_mem_cons_iff]
    by_cases hm : skip m
    · simp [hm]
    · simp [hm, or_assoc]

/-- Bit `i` of the priorities' word is bit `i % 2` of the priority of master `i / 2 + 1`. -/
theorem priosWord_getLsbD (p : Tbl (BitVec 2) 16) (i : Nat) (hi : i < 32) :
    (priosWord p).getLsbD i = true ↔ ∃ m : MasterNo, m.val = i / 2 + 1 ∧ (p.nth m).getLsbD (i % 2) = true := by
  have shifted : ∀ m : MasterNo, (¬ m.val = 0 ∧ ((p.nth m).zeroExtend 32 <<< (2 * m.val - 2)).getLsbD i = true) ↔
      m.val = i / 2 + 1 ∧ (p.nth m).getLsbD (i % 2) = true := by
    intro m
    rw [BitVec.getLsbD_shiftLeft]
    simp only [BitVec.truncate_eq_setWidth, BitVec.getLsbD_setWidth, Bool.and_eq_true, decide_eq_true_eq,
      Bool.not_eq_true', decide_eq_false_iff_not]
    constructor
    · rintro ⟨hm, ⟨-, hle⟩, -, hbit⟩
      have hlt := BitVec.lt_of_getLsbD hbit
      refine ⟨by omega, ?_⟩
      rwa [show i % 2 = i - (2 * m.val - 2) by omega]
    · rintro ⟨hm, hbit⟩
      refine ⟨by omega, ⟨by omega, by omega⟩, by omega, ?_⟩
      rwa [show i - (2 * m.val - 2) = i % 2 by omega]
  rw [priosWord, getLsbD_foldl_or]
  simp only [List.mem_finRange, true_and, shifted]
  simp

/-- The priority of each master but master 0 is read back from the priorities' word. -/
theorem extract_priosWord (p : Tbl (BitVec 2) 16) (m : MasterNo) (hm : m.val ≠ 0) :
    (priosWord p).extractLsb' (2 * m.val - 2) 2 = p.nth m := by
  apply BitVec.eq_of_getLsbD_eq
  intro i hi
  rw [BitVec.getLsbD_extractLsb', Bool.eq_iff_iff, Bool.and_eq_true, priosWord_getLsbD p _ (by omega)]
  constructor
  · rintro ⟨-, q, hq, hbit⟩
    have : q = m := Fin.ext (by omega)
    rwa [this, show (2 * m.val - 2 + i) % 2 = i by omega] at hbit
  · intro hbit
    refine ⟨by simpa using hi, m, by omega, ?_⟩
    rwa [show (2 * m.val - 2 + i) % 2 = i by omega]

theorem extract_priosWord_top (p : Tbl (BitVec 2) 16) : (priosWord p).extractLsb' 30 2 = 0 := by
  apply BitVec.eq_of_getLsbD_eq
  intro i hi
  have clear : (priosWord p).getLsbD (30 + i) = false := by
    rw [← Bool.not_eq_true, priosWord_getLsbD p _ (by omega)]
    rintro ⟨m, hm, -⟩
    omega
  rw [BitVec.getLsbD_extractLsb', clear, Bool.and_false]
  simp

/-- Words w2 to w15 of the layout. -/
def headerWords (h : Header) : Tbl Word 14 := ⟨⟨(encodeHeader h).drop 2⟩, rfl⟩

theorem encodeHeader_eq (h : Header) : encodeHeader h = h.format :: h.balance :: (headerWords h).toList := rfl

/-! The fields of the four words that hold any (R206). -/

section HeaderFields

variable (h : Header)

theorem headerWords_policy_le : (((headerWords h).nth 0).extractLsb' 0 8).toNat ≤ 1 := by
  have byte : ((headerWords h).nth 0).extractLsb' 0 8 = _ := extract_wordOf_byte0 0 8 (by decide)
  rw [byte]
  cases h.policy <;> decide

theorem headerWords_policyBit : ((headerWords h).nth 0).getLsbD 0 = decide (h.policy = .open) := by
  refine (getLsbD_wordOf 0).trans ?_
  rw [if_pos (by decide)]
  cases h.policy <;> decide

theorem headerWords_noticeRing : ((headerWords h).nth 0).extractLsb' 8 8 = numByte h.noticeRing :=
  (extract_wordOf_byte1 0 8 (by decide)).trans BitVec.extractLsb'_eq_self

theorem headerWords_alertLevel : ((headerWords h).nth 0).extractLsb' 16 16 = h.alertLevel := by
  refine extract_wordOf_high.trans ?_
  apply BitVec.eq_of_getLsbD_eq
  intro i hi
  rw [BitVec.getLsbD_append]
  by_cases h8 : i < 8
  · simp [h8]
  · simp [h8, show i - 8 < 8 by omega, show 8 + (i - 8) = i by omega]

theorem headerWords_mask : ((headerWords h).nth 1).extractLsb' 0 7 = h.mask :=
  (extract_wordOf_byte0 0 7 (by decide)).trans (extract_zeroExtend h.mask (by decide))

theorem headerWords_maskTop : ((headerWords h).nth 1).getLsbD 7 = false := by
  refine (getLsbD_wordOf 7).trans ?_
  simp

theorem headerWords_internalPrio : ((headerWords h).nth 1).extractLsb' 8 2 = h.internalPrio :=
  (extract_wordOf_byte1 0 2 (by decide)).trans (extract_zeroExtend h.internalPrio (by decide))

theorem headerWords_internalPrioByte : ((headerWords h).nth 1).extractLsb' 8 8 = h.internalPrio.zeroExtend 8 :=
  (extract_wordOf_byte1 0 8 (by decide)).trans BitVec.extractLsb'_eq_self

theorem headerWords_retryBudget : ((headerWords h).nth 1).extractLsb' 16 3 = h.retryBudget :=
  (extract_wordOf_byte2 0 3 (by decide)).trans (extract_zeroExtend h.retryBudget (by decide))

theorem headerWords_retryBudgetByte : ((headerWords h).nth 1).extractLsb' 16 8 = h.retryBudget.zeroExtend 8 :=
  (extract_wordOf_byte2 0 8 (by decide)).trans BitVec.extractLsb'_eq_self

theorem headerWords_top : ((headerWords h).nth 1).extractLsb' 24 8 = 0 :=
  (extract_wordOf_byte3 0 8).trans BitVec.extractLsb'_eq_self

theorem headerWords_respLimit : ((headerWords h).nth 2).extractLsb' 0 16 = h.respLimit :=
  extract_zeroExtend h.respLimit (by decide)

theorem headerWords_respLimitTop : ((headerWords h).nth 2).extractLsb' 16 16 = 0 := extract_zeroExtend_above h.respLimit

theorem headerWords_prios : (headerWords h).nth 3 = priosWord h.prios := rfl

theorem headerWords_rest : ((headerWords h).toList.drop 4).all (· == 0) = true := rfl

theorem numByte_ring_range (o : Option RingNo) : (numByte o).toNat ≤ 7 ∨ (numByte o).toNat = 0xFF := by
  revert o
  decide

theorem numByte_ring_readBack (o : Option RingNo) :
    (if (numByte o).toNat ≤ 7 then some (Fin.ofNat 8 (numByte o).toNat) else none) = o := by
  revert o
  decide

theorem headerWords_prios_readBack (h0 : h.prios.nth 0 = 0) :
    (Tbl.tabulate fun m : MasterNo => if m.val = 0 then 0 else (priosWord h.prios).extractLsb' (2 * m.val - 2) 2) =
      h.prios := by
  ext m : 1
  rw [Tbl.nth_tabulate]
  split
  · next hm => rw [show m = 0 from Fin.ext hm, h0]
  · next hm => exact extract_priosWord h.prios m hm

theorem decodeHeader_headerWords (hr : h.inRange) (h0 : h.prios.nth 0 = 0) :
    decodeHeader h.format h.balance (headerWords h) = some h := by
  obtain ⟨low, high, limit⟩ := hr
  have internal : (h.internalPrio.zeroExtend 8).toNat ≤ 3 := by
    have := h.internalPrio.isLt
    simp
    omega
  have retry : (h.retryBudget.zeroExtend 8).toNat ≤ 7 := by
    have := h.retryBudget.isLt
    simp
    omega
  have policy : (if decide (h.policy = .open) = true then Policy.open else .closed) = h.policy := by
    cases h.policy <;> rfl
  unfold decodeHeader
  simp only [headerWords_policyBit, headerWords_noticeRing, headerWords_alertLevel, headerWords_mask,
    headerWords_maskTop, headerWords_internalPrio, headerWords_internalPrioByte, headerWords_retryBudget,
    headerWords_retryBudgetByte, headerWords_top, headerWords_respLimit, headerWords_respLimitTop, headerWords_prios,
    headerWords_rest, extract_priosWord_top, numByte_ring_readBack, headerWords_prios_readBack h h0, policy]
  rw [if_pos ⟨headerWords_policy_le h, numByte_ring_range _, low, high, trivial, internal, retry, trivial, limit, trivial,
    trivial, trivial⟩]

end HeaderFields

end Sys2Proof.Machine

namespace Sys2Proof.Machine

/-! ### A ring record's layout (R24, R25, R206) -/

section RingFields

/-- The eight words of the layout. -/
def ringRecord (c : RingConfig) : RingWords := ⟨⟨encodeRing c⟩, rfl⟩

theorem encodeRing_eq (c : RingConfig) : encodeRing c = (ringRecord c).toList := rfl

theorem overrunCode_le (o : Overrun) : overrunCode o ≤ 2 := by cases o <;> decide

theorem underrunCode_le (u : Underrun) : underrunCode u ≤ 2 := by cases u <;> decide

theorem strayCode_le (p : StrayPolicy) : strayCode p ≤ 1 := by cases p <;> decide

theorem overrunOf_code (o : Overrun) : overrunOf (overrunCode o) = o := by cases o <;> rfl

theorem underrunOf_code (u : Underrun) : underrunOf (underrunCode u) = u := by cases u <;> rfl

/-- The number in word 1: the policies, start-at-run and the confirm count. -/
def policyNumber (c : RingConfig) : Nat :=
  overrunCode c.overrun + 4 * underrunCode c.underrun + 16 * strayCode c.stray + (if c.startAtRun then 32 else 0) +
    256 * c.confirm

variable {c : RingConfig}

/-- What R25 asks of the fields that the record holds as numbers. -/
theorem ringWellFormed_ranges (h : ringWellFormed c = true) :
    (1 ≤ slotCode c.slotSize ∧ slotCode c.slotSize ≤ 5 ∧ 64 * 2 ^ (slotCode c.slotSize - 1) = c.slotSize) ∧
      c.slotCount ≤ 1024 ∧ c.confirm ≤ 4 := by
  simp only [ringWellFormed, Bool.and_eq_true, Bool.or_eq_true, beq_iff_eq, decide_eq_true_eq] at h
  obtain ⟨⟨⟨⟨⟨size, -⟩, count⟩, -⟩, confirm⟩, -⟩ := h
  refine ⟨?_, count, confirm⟩
  rcases size with (((size | size) | size) | size) | size <;> rw [size] <;> decide

theorem ringRecord_word0 (h : ringWellFormed c = true) (a b : Nat) :
    (((ringRecord c).nth 0).extractLsb' a b).toNat = (slotCode c.slotSize + 65536 * c.slotCount) / 2 ^ a % 2 ^ b := by
  obtain ⟨⟨-, size, -⟩, count, -⟩ := ringWellFormed_ranges h
  exact extract_ofNat a b (by omega)

theorem policyNumber_lt (h : ringWellFormed c = true) : policyNumber c < 2 ^ 11 := by
  obtain ⟨-, -, confirm⟩ := ringWellFormed_ranges h
  have := overrunCode_le c.overrun
  have := underrunCode_le c.underrun
  have := strayCode_le c.stray
  unfold policyNumber
  split <;> omega

theorem ringRecord_word1 (h : ringWellFormed c = true) (a b : Nat) :
    (((ringRecord c).nth 1).extractLsb' a b).toNat = policyNumber c / 2 ^ a % 2 ^ b :=
  extract_ofNat (n := policyNumber c) a b ((policyNumber_lt h).trans (by decide))

theorem ringRecord_word1_bit (i : Nat) (hi : i < 32) :
    ((ringRecord c).nth 1).getLsbD i = decide (policyNumber c / 2 ^ i % 2 = 1) :=
  getLsbD_ofNat_div i hi

/-- The fields of word 1, bit place by bit place. -/
theorem policyNumber_fields (c : RingConfig) :
    policyNumber c % 4 = overrunCode c.overrun ∧ policyNumber c / 4 % 4 = underrunCode c.underrun ∧
    policyNumber c / 16 % 2 = strayCode c.stray ∧ policyNumber c / 32 % 2 = (if c.startAtRun then 1 else 0) ∧
    policyNumber c / 64 % 4 = 0 ∧ policyNumber c / 256 = c.confirm := by
  have := overrunCode_le c.overrun
  have := underrunCode_le c.underrun
  have := strayCode_le c.stray
  unfold policyNumber
  split <;> omega

theorem ringRecord_slotCode (h : ringWellFormed c = true) :
    (((ringRecord c).nth 0).extractLsb' 0 3).toNat = slotCode c.slotSize := by
  obtain ⟨⟨-, size, -⟩, -, -⟩ := ringWellFormed_ranges h
  rw [ringRecord_word0 h]
  omega

theorem ringRecord_slotCount (h : ringWellFormed c = true) :
    (((ringRecord c).nth 0).extractLsb' 16 11).toNat = c.slotCount := by
  obtain ⟨⟨-, size, -⟩, count, -⟩ := ringWellFormed_ranges h
  rw [ringRecord_word0 h]
  omega

theorem ringRecord_word0_gaps (h : ringWellFormed c = true) :
    ((ringRecord c).nth 0).extractLsb' 3 13 = 0 ∧ ((ringRecord c).nth 0).extractLsb' 27 5 = 0 := by
  obtain ⟨⟨-, size, -⟩, count, -⟩ := ringWellFormed_ranges h
  constructor <;> apply BitVec.eq_of_toNat_eq <;> rw [ringRecord_word0 h]
  · show _ = 0
    omega
  · show _ = 0
    omega

theorem ringRecord_overrun (h : ringWellFormed c = true) :
    (((ringRecord c).nth 1).extractLsb' 0 2).toNat = overrunCode c.overrun := by
  obtain ⟨overrun, -⟩ := policyNumber_fields c
  rw [ringRecord_word1 h]
  omega

theorem ringRecord_underrun (h : ringWellFormed c = true) :
    (((ringRecord c).nth 1).extractLsb' 2 2).toNat = underrunCode c.underrun := by
  obtain ⟨-, underrun, -⟩ := policyNumber_fields c
  rw [ringRecord_word1 h]
  omega

theorem ringRecord_confirm (h : ringWellFormed c = true) :
    (((ringRecord c).nth 1).extractLsb' 8 3).toNat = c.confirm := by
  obtain ⟨-, -, -, -, -, confirm⟩ := policyNumber_fields c
  have := policyNumber_lt h
  rw [ringRecord_word1 h]
  omega

theorem ringRecord_stray : (if ((ringRecord c).nth 1).getLsbD 4 then StrayPolicy.freeze else .fault) = c.stray := by
  obtain ⟨-, -, stray, -⟩ := policyNumber_fields c
  rw [ringRecord_word1_bit 4 (by decide), show 2 ^ 4 = 16 from rfl, stray]
  cases c.stray <;> rfl

theorem ringRecord_startAtRun : ((ringRecord c).nth 1).getLsbD 5 = c.startAtRun := by
  obtain ⟨-, -, -, start, -⟩ := policyNumber_fields c
  rw [ringRecord_word1_bit 5 (by decide), show 2 ^ 5 = 32 from rfl, start]
  cases c.startAtRun <;> rfl

theorem ringRecord_word1_gaps (h : ringWellFormed c = true) :
    ((ringRecord c).nth 1).extractLsb' 6 2 = 0 ∧ ((ringRecord c).nth 1).extractLsb' 11 21 = 0 := by
  obtain ⟨-, -, -, -, gap, -⟩ := policyNumber_fields c
  have := policyNumber_lt h
  constructor <;> apply BitVec.eq_of_toNat_eq <;> rw [ringRecord_word1 h]
  · show _ = 0
    omega
  · show _ = 0
    omega

theorem ringRecord_holdLimit : ((ringRecord c).nth 2).extractLsb' 0 16 = c.holdLimit :=
  extract_zeroExtend c.holdLimit (by decide)

theorem ringRecord_word2_gap : ((ringRecord c).nth 2).extractLsb' 16 16 = 0 :=
  extract_zeroExtend_above c.holdLimit

theorem ringRecord_target : ((ringRecord c).nth 4).extractLsb' 0 16 = c.target := by
  apply BitVec.eq_of_getLsbD_eq
  intro i hi
  show ((c.tolerance ++ c.target).extractLsb' 0 16).getLsbD i = _
  rw [BitVec.getLsbD_extractLsb', BitVec.getLsbD_append]
  simp [hi]

theorem ringRecord_tolerance : ((ringRecord c).nth 4).extractLsb' 16 16 = c.tolerance := by
  apply BitVec.eq_of_getLsbD_eq
  intro i hi
  show ((c.tolerance ++ c.target).extractLsb' 16 16).getLsbD i = _
  rw [BitVec.getLsbD_extractLsb', BitVec.getLsbD_append]
  simp [hi]

theorem ringFields_ringRecord (h : ringWellFormed c = true) : ringFields (ringRecord c) = c := by
  obtain ⟨⟨-, -, size⟩, -, -⟩ := ringWellFormed_ranges h
  simp only [ringFields, ringRecord_slotCode h, ringRecord_slotCount h, ringRecord_overrun h, ringRecord_underrun h,
    ringRecord_confirm h, ringRecord_stray, ringRecord_startAtRun, ringRecord_holdLimit, ringRecord_target,
    ringRecord_tolerance, overrunOf_code, underrunOf_code, size]
  rfl

theorem ringCodesHold_ringRecord (h : ringWellFormed c = true) : ringCodesHold (ringRecord c) = true := by
  obtain ⟨⟨low, high, -⟩, -, -⟩ := ringWellFormed_ranges h
  obtain ⟨gap0, top0⟩ := ringRecord_word0_gaps h
  obtain ⟨gap1, top1⟩ := ringRecord_word1_gaps h
  have zeros : (ringRecord c).nth 5 = 0 ∧ (ringRecord c).nth 6 = 0 ∧ (ringRecord c).nth 7 = 0 := ⟨rfl, rfl, rfl⟩
  simp [ringCodesHold, ringRecord_slotCode h, ringRecord_overrun h, ringRecord_underrun h, low, high, gap0, top0, gap1,
    top1, ringRecord_word2_gap, zeros, overrunCode_le, underrunCode_le]

theorem decodeRingConfig_ringRecord (h : ringWellFormed c = true) : decodeRingConfig (ringRecord c) = some c := by
  rw [decodeRingConfig, ringCodesHold_ringRecord h, ringFields_ringRecord h, h]
  rfl

/-- A well-formed configuration has a slot code above 0, so an image does not take its record for the unconfigured one. -/
theorem decodeImageRing_ringRecord (h : ringWellFormed c = true) : decodeImageRing (ringRecord c) = some c := by
  have notZero : ¬ (ringRecord c).toList.all (· == 0) = true := fun zero => by
    have word : (ringRecord c).nth 0 = 0 := by
      have := List.all_eq_true.1 zero ((ringRecord c).nth 0) (List.mem_cons_self ..)
      simpa using this
    have code := ringRecord_slotCode h
    obtain ⟨⟨low, -, -⟩, -, -⟩ := ringWellFormed_ranges h
    rw [word] at code
    simp at code
    omega
  rw [decodeImageRing, if_neg notZero, decodeRingConfig_ringRecord h]

end RingFields

end Sys2Proof.Machine

namespace Sys2Proof.Proofs

open Sys2Proof.Machine

/-- Settles O54: the words of each layout, read back field by field. -/
theorem layoutsReadBack : Obligations.LayoutsReadBack :=
  ⟨fun h hr h0 => ⟨headerWords h, encodeHeader_eq h, decodeHeader_headerWords h hr h0⟩,
    fun c hc => ⟨ringRecord c, encodeRing_eq c, decodeRingConfig_ringRecord hc, decodeImageRing_ringRecord hc⟩,
    ringRecord RingConfig.unconfigured, encodeRing_eq _, by decide, by decide⟩

end Sys2Proof.Proofs

namespace Sys2Proof.Machine

/-! ### The operations that leave every ring record alone -/

section RingFrame

variable (s : State)

@[simp] theorem State.setOutst_rings (m : MasterNo) (o : Outstanding) : (s.setOutst m o).rings = s.rings := by
  unfold State.setOutst
  split <;> rfl

@[simp] theorem State.answer_rings (m : MasterNo) (a : Answer) : (s.answer m a).rings = s.rings := by
  unfold State.answer
  split <;> rfl

@[simp] theorem State.giveNotice_rings (n : Notice) : (s.giveNotice n).rings = s.rings := rfl

@[simp] theorem State.handJoin_rings (e : QueueEntry) : (s.handJoin e).rings = s.rings := rfl

@[simp] theorem State.takeResult_rings (p : DownResult → Bool) : (s.takeResult p).rings = s.rings := rfl

@[simp] theorem State.takeWinner_rings (x : Target) : (s.takeWinner x).rings = s.rings := rfl

@[simp] theorem State.faultWithNotice_rings (m : MasterNo) (a : Word) (reason : Reason) (w : Option WindowNo) (sub : Subject) :
    (s.faultWithNotice m a reason w sub).rings = s.rings := s.answer_rings m _

@[simp] theorem State.ringFault_rings (m : MasterNo) (rq : Request) (w : WindowNo) (r : RingNo) (reason : Reason) :
    (s.ringFault m rq w r reason).rings = s.rings := s.answer_rings m _

@[simp] theorem State.claimFault_rings (m : MasterNo) (rq : Request) (w : WindowNo) (c : CellNo) (reason : Reason) :
    (s.claimFault m rq w c reason).rings = s.rings := s.answer_rings m _

@[simp] theorem State.claimReply_rings (m : MasterNo) (c : CellNo) (waited : Bool) :
    (s.claimReply m c waited).rings = s.rings := s.answer_rings m _

@[simp] theorem State.forward_rings (m : MasterNo) (rq : Request) (p : Purpose) : (s.forward m rq p).rings = s.rings :=
  s.setOutst_rings m _

@[simp] theorem State.forwardRing_rings (m : MasterNo) (rq : Request) (w : WindowNo) (r : RingNo) :
    (s.forwardRing m rq w r).rings = s.rings := s.forward_rings m rq _

theorem State.park_rings {m : MasterNo} {rq : Request} {w : WindowNo} {x : Target} {c : Cause} {limit : BitVec 16}
    {via : Option Woken} {u : State} (h : s.park m rq w x c limit via = some u) : u.rings = s.rings := by
  unfold State.park at h
  split at h
  · cases h
  · split at h <;> cases h <;> exact State.setOutst_rings _ _ _

@[simp] theorem State.ringPark_rings (m : MasterNo) (rq : Request) (w : WindowNo) (r : RingNo) (c : Cause)
    (via : Option Woken) : (s.ringPark m rq w r c via).rings = s.rings := by
  unfold State.ringPark
  dsimp only
  split
  · next hu => exact s.park_rings hu
  · exact s.ringFault_rings m rq w r _

@[simp] theorem State.answerEntries_rings (reason : Reason) : ∀ (l : List ParkEntry) (s : State),
    (s.answerEntries reason l).rings = s.rings
  | [], _ => rfl
  | e :: l, s => (State.answerEntries_rings reason l _).trans (s.answer_rings e.master _)

@[simp] theorem State.noticeEntries_rings (reason : Reason) (r : RingNo) : ∀ (l : List ParkEntry) (s : State),
    (s.noticeEntries reason r l).rings = s.rings
  | [], _ => rfl
  | _ :: l, _ => State.noticeEntries_rings reason r l _

@[simp] theorem State.cancelEntries_rings (reason : Reason) (p : ParkEntry → Bool) :
    (s.cancelEntries reason p).rings = s.rings := State.answerEntries_rings reason _ _

@[simp] theorem State.cancelRing_rings (reason : Reason) (r : RingNo) : (s.cancelRing reason r).rings = s.rings := by
  simp [State.cancelRing]

@[simp] theorem State.endOwnership_rings (c : CellNo) (forced : Bool) : (s.endOwnership c forced).rings = s.rings := by
  rcases s.endOwnership_cases c forced with ⟨-, e⟩ | ⟨x, -, e⟩ <;> simp [e]

@[simp] theorem State.forceEnd_rings (kind : NoticeKind) (c : CellNo) (m : MasterNo) :
    (s.forceEnd kind c m).rings = s.rings := s.endOwnership_rings c true

@[simp] theorem State.claimHandle_rings (m : MasterNo) (rq : Request) (w : WindowNo) (c : CellNo) (via : Option Woken) :
    (s.claimHandle m rq w c via).rings = s.rings := by
  unfold State.claimHandle
  split
  · split
    · split
      · unfold State.claimRead
        split
        · simp
        · split
          · simp
          · split
            · split
              · next hu => exact s.park_rings hu
              · simp
            · simp
      · unfold State.claimWrite
        split
        · simp
        · split <;> simp
    · simp
  · simp

@[simp] theorem State.answerSource_rings (src : Source) (a : Answer) : (s.answerSource src a).rings = s.rings := by
  unfold State.answerSource
  split
  · split <;> simp
  · rfl
  · rfl

@[simp] theorem State.noticeSource_rings (e : QueueEntry) (ending : Ending) (sub : Subject) :
    (s.noticeSource e ending sub).rings = s.rings := by
  unfold State.noticeSource
  split <;> rfl

@[simp] theorem State.noteDetached_rings (r : RingNo) (src : Source) (d : Bool) :
    (s.noteDetached r src d).rings = s.rings := by
  unfold State.noteDetached
  split
  · split <;> rfl
  · rfl

@[simp] theorem State.countUnbound_rings (r : RingNo) : (s.countUnbound r).rings = s.rings := by
  unfold State.countUnbound
  split <;> rfl

@[simp] theorem State.signalCommit_rings (r : RingNo) (m : MasterNo) (a : Word) :
    (s.signalCommit r m a).rings = s.rings := s.countUnbound_rings r

@[simp] theorem State.cadenceNotice_rings (r : RingNo) (m : MasterNo) (a : Option Word) (old new : CadClass)
    (i : BitVec 16) (w : Bool) : (s.cadenceNotice r m a old new i w).rings = s.rings := s.countUnbound_rings r

@[simp] theorem State.arbitrate_rings : s.arbitrate.rings = s.rings := by
  by_cases hidle : s.dn.link = .idle
  · by_cases hq : s.dn.queue = []
    · rw [State.arbitrate_empty s hq]
    · obtain ⟨pre, e, post, -, -, -, heq⟩ := s.arbitrate_spec hidle hq
      rw [heq]
      rfl
  · rw [State.arbitrate_busy s hidle]

@[simp] theorem State.endFlight_rings (e : QueueEntry) (ending : Ending) : (s.endFlight e ending).rings = s.rings :=
  State.arbitrate_rings _

@[simp] theorem State.endSettling_rings : s.endSettling.rings = s.rings := State.arbitrate_rings _

@[simp] theorem State.join_rings (e : QueueEntry) : (s.join e).rings = s.rings := by
  by_cases hidle : s.dn.link = .idle
  · rw [State.join_idle s e hidle]
    rfl
  · rw [State.join_busy s e hidle]

@[simp] theorem State.doneFlight_rings (e : QueueEntry) (data : List Byte) : (s.doneFlight e data).rings = s.rings := by
  unfold State.doneFlight
  split
  · simp
  · split <;> simp

@[simp] theorem State.endReset_rings (cause : ResetCause) : (s.endReset cause).rings = s.rings := by
  unfold State.endReset
  dsimp only
  split <;> rfl

@[simp] theorem State.failLoad_rings (f : Failure) : (s.failLoad f).rings = s.rings := by
  rw [State.failLoad, State.completeLoad_eq]

end RingFrame

/-! ### A request that holds its lane

What the lane, cursor and flow checks come to, said of the ring as it stood before the request took its lane (R31 to R40): every
outcome but a forward makes the lane FREE again. -/

section LaneCheck

variable {s : State} {m : MasterNo} {rq : Request} {w : WindowNo} {r : RingNo} {via : Option Woken}

theorem State.holdRing_setLane (l : Lane) (c : Cause) :
    (s.setLane r (Dir.side rq.dir) l).holdRing m rq w r c via = s.holdRing m rq w r c via := by
  simp only [State.holdRing, State.setLane_setLane]

theorem State.refuseRing_setLane (l : Lane) (reason : Reason) :
    (s.setLane r (Dir.side rq.dir) l).refuseRing m rq w r reason = s.refuseRing m rq w r reason := by
  simp only [State.refuseRing, State.setLane_setLane]

theorem State.setRing_setRing (s : State) (r : RingNo) (a b : Ring) : (s.setRing r a).setRing r b = s.setRing r b := by
  simp [State.setRing]

@[simp] theorem Ring.setLane_strays (k : Ring) (side : Side) (l : Lane) : (k.setLane side l).strays = k.strays := by
  cases side <;> rfl

theorem State.setLane_setRing (s : State) (r : RingNo) (side : Side) (l : Lane) (k : Ring) :
    (s.setLane r side l).setRing r k = s.setRing r k := s.setRing_setRing r _ k

theorem State.stray_setLane (l : Lane) : (s.setLane r (Dir.side rq.dir) l).stray m rq w r = s.stray m rq w r := by
  simp only [State.stray, State.setLane_ring, Ring.setLane_setLane, Ring.setLane_cfg, Ring.setLane_strays,
    State.setLane_setRing]

/-- A lane that is neither FREE nor RESERVED for the request's own replay is taken, and the request is parked (R31). -/
theorem State.laneCheck_taken (hf : (s.ring r).lane (Dir.side rq.dir) ≠ .free)
    (hr : (s.ring r).lane (Dir.side rq.dir) ≠ .reserved m) :
    s.laneCheck m rq w r via = s.ringPark m rq w r .lane via := if_neg (not_or.2 ⟨hf, hr⟩)

theorem State.laneCheck_stray
    (h : (s.ring r).lane (Dir.side rq.dir) = .free ∨ (s.ring r).lane (Dir.side rq.dir) = .reserved m)
    (hc : ¬ s.atCursor rq w r) : s.laneCheck m rq w r via = s.stray m rq w r := by
  rw [← State.stray_setLane (.busy m false)]
  exact (if_pos h).trans (if_neg hc)

theorem State.laneCheck_write (hd : Dir.side rq.dir = .producer)
    (h : (s.ring r).producer = .free ∨ (s.ring r).producer = .reserved m) (hc : s.atCursor rq w r) :
    s.laneCheck m rq w r via = (s.setLane r .producer (.busy m false)).producerFlow m rq w r via := by
  unfold State.laneCheck
  unfold State.atCursor at hc
  rw [hd] at hc ⊢
  exact (if_pos h).trans (if_pos hc)

theorem State.laneCheck_read (hd : Dir.side rq.dir = .consumer)
    (h : (s.ring r).consumer = .free ∨ (s.ring r).consumer = .reserved m) (hc : s.atCursor rq w r) :
    s.laneCheck m rq w r via = (s.setLane r .consumer (.busy m false)).consumerFlow m rq w r via := by
  unfold State.laneCheck
  unfold State.atCursor at hc
  rw [hd] at hc ⊢
  exact (if_pos h).trans (if_pos hc)

/-! The flow checks, by the fill and the policy of the ring as it stood (R34, R35, R39, R40). -/

theorem State.producerFlow_open (hf : (s.ring r).fill < (s.ring r).cfg.slotCount) :
    (s.setLane r .producer (.busy m false)).producerFlow m rq w r via =
      (s.setLane r .producer (.busy m false)).forwardRing m rq w r := by
  unfold State.producerFlow
  simp only [State.setLane_ring]
  exact if_pos hf

theorem State.producerFlow_hold (hd : Dir.side rq.dir = .producer) (hf : (s.ring r).cfg.slotCount ≤ (s.ring r).fill)
    (hp : (s.ring r).cfg.overrun = .hold) :
    (s.setLane r .producer (.busy m false)).producerFlow m rq w r via = s.holdRing m rq w r .full via := by
  rw [← State.holdRing_setLane (.busy m false), hd]
  unfold State.producerFlow
  simp only [State.setLane_ring, Ring.setLane_cfg, hp]
  exact if_neg (Nat.not_lt.2 hf)

theorem State.producerFlow_refuse (hd : Dir.side rq.dir = .producer) (hf : (s.ring r).cfg.slotCount ≤ (s.ring r).fill)
    (hp : (s.ring r).cfg.overrun = .refuse) :
    (s.setLane r .producer (.busy m false)).producerFlow m rq w r via = s.refuseRing m rq w r .full := by
  rw [← State.refuseRing_setLane (.busy m false), hd]
  unfold State.producerFlow
  simp only [State.setLane_ring, Ring.setLane_cfg, hp]
  exact if_neg (Nat.not_lt.2 hf)

theorem State.producerFlow_wait (hd : Dir.side rq.dir = .producer) (hf : (s.ring r).cfg.slotCount ≤ (s.ring r).fill)
    (hp : (s.ring r).cfg.overrun = .overwrite) (hc : (s.ring r).consumer ≠ .free) :
    (s.setLane r .producer (.busy m false)).producerFlow m rq w r via = s.holdRing m rq w r .lane via := by
  rw [← State.holdRing_setLane (.busy m false), hd]
  unfold State.producerFlow
  simp only [State.setLane_ring, Ring.setLane_cfg, hp]
  exact (if_neg (Nat.not_lt.2 hf)).trans (if_neg hc)

theorem State.producerFlow_drop (hf : (s.ring r).cfg.slotCount ≤ (s.ring r).fill)
    (hp : (s.ring r).cfg.overrun = .overwrite) (hc : (s.ring r).consumer = .free) :
    (s.setLane r .producer (.busy m false)).producerFlow m rq w r via =
      (((s.setRing r ((s.ring r).dropSlot.setLane .producer (.busy m false))).giveNotice
        (dropNotice m w r (winBase (s.window w)) (s.ring r))).forwardRing m rq w r).wakeRequests r := by
  unfold State.producerFlow
  simp only [State.setLane_ring, Ring.setLane_cfg, hp, State.setLane_setRing]
  exact (if_neg (Nat.not_lt.2 hf)).trans (if_pos hc)

theorem State.consumerFlow_open (hf : 1 ≤ (s.ring r).fill) :
    (s.setLane r .consumer (.busy m false)).consumerFlow m rq w r via =
      (s.setLane r .consumer (.busy m false)).forwardRing m rq w r := by
  unfold State.consumerFlow
  simp only [State.setLane_ring]
  exact if_pos hf

theorem State.consumerFlow_hold (hd : Dir.side rq.dir = .consumer) (hf : (s.ring r).fill = 0)
    (hp : (s.ring r).cfg.underrun = .hold) :
    (s.setLane r .consumer (.busy m false)).consumerFlow m rq w r via = s.holdRing m rq w r .empty via := by
  rw [← State.holdRing_setLane (.busy m false), hd]
  unfold State.consumerFlow
  simp only [State.setLane_ring, Ring.setLane_cfg, hp]
  exact if_neg (Nat.not_le.2 (Nat.lt_one_iff.2 hf))

theorem State.consumerFlow_refuse (hd : Dir.side rq.dir = .consumer) (hf : (s.ring r).fill = 0)
    (hp : (s.ring r).cfg.underrun = .refuse) :
    (s.setLane r .consumer (.busy m false)).consumerFlow m rq w r via = s.refuseRing m rq w r .empty := by
  rw [← State.refuseRing_setLane (.busy m false), hd]
  unfold State.consumerFlow
  simp only [State.setLane_ring, Ring.setLane_cfg, hp]
  exact if_neg (Nat.not_le.2 (Nat.lt_one_iff.2 hf))

theorem State.consumerFlow_fill (hf : (s.ring r).fill = 0) (hp : (s.ring r).cfg.underrun = .fill) :
    (s.setLane r .consumer (.busy m false)).consumerFlow m rq w r via =
      ((s.setRing r { s.ring r with consumer := .free, fills := (s.ring r).fills + 1 }).answer m
        (.done (fillData (s.ring r).cfg.fillWord rq.len))).wakeRequests r := by
  unfold State.consumerFlow
  simp only [State.setLane_ring, Ring.setLane_cfg, hp, State.setLane_setRing]
  exact if_neg (Nat.not_le.2 (Nat.lt_one_iff.2 hf))

end LaneCheck

end Sys2Proof.Machine

namespace Sys2Proof.Machine

/-! ### More changes that keep the ring laws (R26, R36) -/

section RingLaw

variable {k : Ring}

/-- The next slot number after the last committed slot, when one more slot is committed. -/
theorem slot_after_commit (ri fill n : Nat) : ((ri + fill) % n + 1) % n = (ri + (fill + 1)) % n := by
  rw [Nat.mod_add_mod, Nat.add_assoc]

/-- The slots from the next read slot on, when the oldest of at least one is given up. -/
theorem slot_after_release {ri fill n : Nat} (h : 1 ≤ fill) : (ri + fill) % n = ((ri + 1) % n + (fill - 1)) % n := by
  rw [Nat.mod_add_mod, show ri + 1 + (fill - 1) = ri + fill by omega]

/-- A producer write completes where the ring has room, and its lane is given up (R37). -/
theorem Ring.law_producerAdvance (h : k.law) (room : k.fill < k.cfg.slotCount) (len : Nat) {l : Lane}
    (hl : ∀ m, l ≠ .busy m false) : ((k.producerAdvance len).setLane .producer l).law := by
  obtain ⟨cfg, on, le, wi, ri, full, empty, -, consumer⟩ := h
  unfold Ring.producerAdvance
  split
  · refine ⟨cfg, on, room, ?_, ri, fun _ => rfl, fun zero => absurd zero (Nat.succ_ne_zero _),
      fun m busy => absurd busy (hl m), fun m busy => Nat.le_succ_of_le (consumer m busy)⟩
    show (k.wi + 1) % k.cfg.slotCount = (k.ri + (k.fill + 1)) % k.cfg.slotCount
    rw [wi, slot_after_commit]
  · exact ⟨cfg, on, le, wi, ri, fun eq => absurd eq (Nat.ne_of_lt room), empty, fun m busy => absurd busy (hl m), consumer⟩

/-- A consumer read completes where the ring holds a slot, and its lane is given up (R41). -/
theorem Ring.law_consumerAdvance (h : k.law) (stocked : 1 ≤ k.fill) (len : Nat) {l : Lane}
    (hl : ∀ m, l ≠ .busy m false) : ((k.consumerAdvance len).setLane .consumer l).law := by
  obtain ⟨cfg, on, le, wi, ri, full, empty, producer, -⟩ := h
  unfold Ring.consumerAdvance
  split
  · refine ⟨cfg, on, (Nat.sub_le _ _).trans le, ?_, fun pos => Nat.mod_lt _ (Nat.pos_of_ne_zero pos), fun eq => ?_,
      fun _ => rfl, fun m busy => (Nat.sub_le _ _).trans_lt (producer m busy), fun m busy => absurd busy (hl m)⟩
    · exact wi.trans (slot_after_release stocked)
    · change k.fill - 1 = k.cfg.slotCount at eq
      omega
  · exact ⟨cfg, on, le, wi, ri, full, fun eq => absurd eq (Nat.one_le_iff_ne_zero.1 stocked), producer,
      fun m busy => absurd busy (hl m)⟩

/-- The oldest slot of a full ring is dropped for a producer write that takes the lane (R35). -/
theorem Ring.law_dropSlot (h : k.law) (stocked : 1 ≤ k.fill) (free : k.consumer = .free) (m : MasterNo) :
    (k.dropSlot.setLane .producer (.busy m false)).law := by
  obtain ⟨cfg, on, le, wi, ri, -, -, -, -⟩ := h
  have room : k.fill - 1 < k.cfg.slotCount := by omega
  refine ⟨cfg, on, room.le, wi.trans (slot_after_release stocked), fun pos => Nat.mod_lt _ (Nat.pos_of_ne_zero pos),
    fun eq => absurd eq room.ne, fun _ => rfl, fun _ _ => room, fun q busy => ?_⟩
  change k.consumer = .busy q false at busy
  rw [free] at busy
  cases busy

/-- Counters that move change no law. -/
theorem Ring.law_counters (h : k.law) (commits releases drops fills strays : Word) :
    ({ k with commits := commits, releases := releases, drops := drops, fills := fills, strays := strays } : Ring).law := h

theorem RingConfig.startAtRun_wellFormed {c : RingConfig} (h : c = RingConfig.unconfigured ∨ ringWellFormed c = true)
    (hs : c.startAtRun = true) : ringWellFormed c = true := by
  rcases h with rfl | h
  · cases hs
  · exact h

/-- A ring with a well-formed configuration and no attached access starts at slot 0 (R47, R55). -/
theorem Ring.law_start (h : ringWellFormed k.cfg = true) (hp : ∀ m, k.producer ≠ .busy m false)
    (hc : ∀ m, k.consumer ≠ .busy m false) : ({ k.zeroCursors.zeroCounters with state := .running } : Ring).law :=
  Ring.law_zeroCursors (k := { k.zeroCounters with state := .running }) (Or.inr h) (fun _ => h) hp hc

/-- A ring that RT installs is OFF and empty, with no attached access (R55, R179). -/
theorem Ring.law_install (k : Ring) {c : RingConfig} (h : c = RingConfig.unconfigured ∨ ringWellFormed c = true) :
    (k.install c).law :=
  Ring.law_zeroCursors (k := { k.detachLanes.zeroCounters with cfg := c, state := .off }) h (fun on => absurd rfl on)
    (fun m => k.producer.detach_ne_busy m) (fun m => k.consumer.detach_ne_busy m)

end RingLaw

/-! ### What each shared operation keeps -/

section RingLaws

variable {s t : State} {m : MasterNo} {rq : Request} {w : WindowNo} {r : RingNo} {via : Option Woken}

theorem State.ringLaws.of_rings (h : s.ringLaws) (e : t.rings = s.rings) : t.ringLaws := fun r => by
  have := h r
  rwa [State.ring, ← e] at this

theorem State.ringLaws.setRing (h : s.ringLaws) (r : RingNo) {k : Ring} (hk : k.law) : (s.setRing r k).ringLaws := fun q => by
  rw [State.setRing_ring]
  split
  · exact hk
  · exact h q

theorem State.ringLaws.setLane (h : s.ringLaws) (r : RingNo) (side : Side) {l : Lane} (hl : ∀ m, l ≠ .busy m false) :
    (s.setLane r side l).ringLaws := h.setRing r (Ring.law_setLane (h r) side l hl)

theorem Lane.free_ne_busy (m : MasterNo) : Lane.free ≠ .busy m false := by simp

theorem Lane.reserved_ne_busy (q m : MasterNo) : Lane.reserved q ≠ .busy m false := by simp

theorem State.ringLaws.nwEvaluate (h : s.ringLaws) : s.nwEvaluate.ringLaws := by
  rcases s.nwEvaluate_cases with e | ⟨rec, rest, r, w, -, -, -, -, may, e⟩
  · rwa [e]
  · obtain ⟨-, -, -, room⟩ := (s.mayWrite_iff r).1 may
    rw [e]
    exact h.setRing r (Ring.law_producerBusy (h r) 0 room)

theorem State.ringLaws.wakeSide (h : s.ringLaws) (r : RingNo) (side : Side) : (s.wakeSide r side).ringLaws := by
  rcases s.wakeSide_cases r side with ⟨-, -, e⟩ | e | ⟨x, -, -, e⟩
  · rw [e]
    exact h.nwEvaluate
  · rwa [e]
  · rw [e]
    exact (h.setLane r side (Lane.reserved_ne_busy x.master)).of_rings (by simp [State.setLane])

theorem State.ringLaws.wakeRequests (h : s.ringLaws) (r : RingNo) : (s.wakeRequests r).ringLaws := by
  unfold State.wakeRequests
  split
  · exact (h.wakeSide r _).wakeSide r _
  · exact h

theorem State.ringLaws.freeLane (h : s.ringLaws) (r : RingNo) (side : Side) : (s.freeLane r side).ringLaws :=
  (h.setLane r side Lane.free_ne_busy).wakeRequests r

theorem State.ringLaws.dropReservation (h : s.ringLaws) (m : MasterNo) (via : Option Woken) :
    (s.dropReservation m via).ringLaws := by
  unfold State.dropReservation
  split
  · exact h
  · split
    · exact h.freeLane _ _
    · exact h

/-! ### The handling of a ring request -/

theorem State.ringLaws.stray (h : s.ringLaws) (on : (s.ring r).state = .running) : (s.stray m rq w r).ringLaws := by
  obtain ⟨-, wellFormed, -⟩ := h r
  have freed : ({ (s.ring r).setLane (Dir.side rq.dir) .free with strays := (s.ring r).strays + 1 } : Ring).law :=
    Ring.law_counters (Ring.law_setLane (h r) _ _ Lane.free_ne_busy) _ _ _ _ _
  unfold State.stray
  dsimp only
  split
  · exact ((h.setRing r freed).of_rings (by simp)).wakeRequests r
  · have frozen := Ring.law_state (Ring.law_detachLanes freed) .frozen fun _ => by
      show ringWellFormed ((s.ring r).setLane (Dir.side rq.dir) .free).cfg = true
      rw [Ring.setLane_cfg]
      exact wellFormed (by simp [on])
    exact (h.setRing r frozen).of_rings (by simp)

theorem State.ringLaws.refuseRing (h : s.ringLaws) (reason : Reason) : (s.refuseRing m rq w r reason).ringLaws :=
  ((h.setLane r _ Lane.free_ne_busy).of_rings (State.ringFault_rings _ _ _ _ _ _)).wakeRequests r

theorem State.ringLaws.holdRing (h : s.ringLaws) (c : Cause) : (s.holdRing m rq w r c via).ringLaws :=
  ((h.setLane r _ Lane.free_ne_busy).of_rings (State.ringPark_rings _ _ _ _ _ _ _)).wakeRequests r

theorem State.ringLaws.producerFlow (h : s.ringLaws) (on : (s.ring r).state = .running)
    (hd : Dir.side rq.dir = .producer) :
    ((s.setLane r .producer (.busy m false)).producerFlow m rq w r via).ringLaws := by
  by_cases room : (s.ring r).fill < (s.ring r).cfg.slotCount
  · have taken : (s.setLane r .producer (.busy m false)).ringLaws := h.setRing r (Ring.law_producerBusy (h r) m room)
    rw [State.producerFlow_open room]
    exact taken.of_rings (by simp)
  · have full := Nat.not_lt.1 room
    cases policy : (s.ring r).cfg.overrun with
    | hold =>
      rw [State.producerFlow_hold hd full policy]
      exact h.holdRing _
    | refuse =>
      rw [State.producerFlow_refuse hd full policy]
      exact h.refuseRing _
    | overwrite =>
      by_cases free : (s.ring r).consumer = .free
      · obtain ⟨-, wellFormed, -⟩ := h r
        have count := ringWellFormed_count (wellFormed (by simp [on]))
        have dropped := h.setRing r (Ring.law_dropSlot (h r) (count.trans_le full) free m)
        rw [State.producerFlow_drop full policy free]
        exact (dropped.of_rings (by simp)).wakeRequests r
      · rw [State.producerFlow_wait hd full policy free]
        exact h.holdRing _

theorem State.ringLaws.consumerFlow (h : s.ringLaws) (hd : Dir.side rq.dir = .consumer) :
    ((s.setLane r .consumer (.busy m false)).consumerFlow m rq w r via).ringLaws := by
  by_cases stocked : 1 ≤ (s.ring r).fill
  · have taken : (s.setLane r .consumer (.busy m false)).ringLaws := h.setRing r (Ring.law_consumerBusy (h r) m stocked)
    rw [State.consumerFlow_open stocked]
    exact taken.of_rings (by simp)
  · have empty : (s.ring r).fill = 0 := by omega
    cases policy : (s.ring r).cfg.underrun with
    | hold =>
      rw [State.consumerFlow_hold hd empty policy]
      exact h.holdRing _
    | refuse =>
      rw [State.consumerFlow_refuse hd empty policy]
      exact h.refuseRing _
    | fill =>
      have filled := h.setRing r (k := { s.ring r with consumer := .free, fills := (s.ring r).fills + 1 })
        (Ring.law_setLane (h r) .consumer .free Lane.free_ne_busy)
      rw [State.consumerFlow_fill empty policy]
      exact (filled.of_rings (by simp)).wakeRequests r

theorem State.ringLaws.laneCheck (h : s.ringLaws) (on : (s.ring r).state = .running) :
    (s.laneCheck m rq w r via).ringLaws := by
  by_cases lane : (s.ring r).lane (Dir.side rq.dir) = .free ∨ (s.ring r).lane (Dir.side rq.dir) = .reserved m
  · by_cases cursor : s.atCursor rq w r
    · cases side : Dir.side rq.dir with
      | producer =>
        rw [side] at lane
        rw [State.laneCheck_write side lane cursor]
        exact h.producerFlow on side
      | consumer =>
        rw [side] at lane
        rw [State.laneCheck_read side lane cursor]
        exact h.consumerFlow side
    · rw [State.laneCheck_stray lane cursor]
      exact h.stray on
  · obtain ⟨free, reserved⟩ := not_or.1 lane
    rw [State.laneCheck_taken free reserved]
    exact h.of_rings (State.ringPark_rings _ _ _ _ _ _ _)

theorem State.ringLaws.ringHandle (h : s.ringLaws) : (s.ringHandle m rq w r via).ringLaws := by
  have faulted : ∀ reason, (s.ringFault m rq w r reason).ringLaws := fun _ => h.of_rings (State.ringFault_rings _ _ _ _ _ _)
  unfold State.ringHandle
  split
  · split
    · exact (faulted _).dropReservation _ _
    · exact (faulted _).dropReservation _ _
    · next on => exact (h.laneCheck on).dropReservation _ _
  · exact (faulted _).dropReservation _ _

theorem State.ringLaws.takeAdmission (h : s.ringLaws) : (s.takeAdmission m rq via).ringLaws := by
  unfold State.takeAdmission
  split
  · refine State.ringLaws.dropReservation (h.of_rings ?_) _ _
    unfold State.admissionFault
    split <;> simp
  · exact (h.of_rings (State.forward_rings _ _ _ _)).dropReservation _ _
  · exact h.ringHandle
  · exact (h.of_rings (State.claimHandle_rings _ _ _ _ _ _)).dropReservation _ _

/-! ### The completions of ring accesses -/

variable {e : QueueEntry}

theorem State.ringLaws.producerDone (h : s.ringLaws) : (s.producerDone r e).ringLaws := by
  have done : (({ (if (s.ring r).producer.isDetached then s.ring r else (s.ring r).producerAdvance e.len) with
      producer := (s.ring r).producer.release } : Ring)).law := by
    split
    · exact Ring.law_setLane (h r) .producer _ (Lane.release_ne_busy _)
    · next attached =>
      obtain ⟨q, busy⟩ := Lane.busy_of_not_detached (Bool.eq_false_iff.2 attached)
      obtain ⟨-, -, -, -, -, -, -, room, -⟩ := h r
      exact Ring.law_producerAdvance (h r) (room q busy) e.len (Lane.release_ne_busy _)
  have kept := h.setRing r done
  unfold State.producerDone
  dsimp only
  refine State.ringLaws.wakeRequests (kept.of_rings ?_) r
  split <;> simp

theorem State.ringLaws.consumerDone (h : s.ringLaws) (data : List Byte) : (s.consumerDone r e data).ringLaws := by
  have done : (({ (if (s.ring r).consumer.isDetached then s.ring r else (s.ring r).consumerAdvance e.len) with
      consumer := (s.ring r).consumer.release } : Ring)).law := by
    split
    · exact Ring.law_setLane (h r) .consumer _ (Lane.release_ne_busy _)
    · next attached =>
      obtain ⟨q, busy⟩ := Lane.busy_of_not_detached (Bool.eq_false_iff.2 attached)
      obtain ⟨-, -, -, -, -, -, -, -, stocked⟩ := h r
      exact Ring.law_consumerAdvance (h r) (stocked q busy) e.len (Lane.release_ne_busy _)
  have kept := h.setRing r done
  unfold State.consumerDone
  exact (kept.of_rings (by simp)).wakeRequests r

theorem State.ringLaws.accessFailed (h : s.ringLaws) (side : Side) (ending : Ending) :
    (s.accessFailed r side e ending).ringLaws := by
  have kept := h.setLane r side (Lane.release_ne_busy ((s.ring r).lane side))
  unfold State.accessFailed
  exact (kept.of_rings (by simp)).wakeRequests r

end RingLaws

end Sys2Proof.Machine

namespace Sys2Proof.Machine

/-! ### Every command keeps the ring laws -/

section RingLawCommands

variable {s t : State} {r : RingNo} {m : MasterNo}

theorem State.ringLaws.begin (h : s.ringLaws) : s.begin.ringLaws := h

theorem State.ringLaws.setHand (h : s.ringLaws) (x : HandOffs) : (s.setHand x).ringLaws := h

/-! The ring tracker's own events -/

theorem execAdmission_ringLaws (h : s.ringLaws) (he : execAdmission m s = .next t) : t.ringLaws := by
  unfold execAdmission at he
  split at he <;> cases he
  · exact h.begin.takeAdmission
  · exact h

theorem execReplay_ringLaws (h : s.ringLaws) (he : execReplay m s = .next t) : t.ringLaws := by
  unfold execReplay at he
  split at he <;> cases he
  · exact h.begin.takeAdmission
  · exact h

theorem execRingProducerDone_ringLaws (h : s.ringLaws) (he : execRingProducerDone r s = .next t) : t.ringLaws := by
  unfold execRingProducerDone at he
  dsimp only at he
  split at he <;> cases he
  · exact (h.begin.setHand _).producerDone
  · exact h

theorem execRingConsumerDone_ringLaws (h : s.ringLaws) (he : execRingConsumerDone r s = .next t) : t.ringLaws := by
  unfold execRingConsumerDone at he
  dsimp only at he
  split at he <;> cases he
  · exact (h.begin.setHand _).consumerDone _
  · exact h

theorem execRingAccessFailed_ringLaws {side : Side} (h : s.ringLaws) (he : execRingAccessFailed r side s = .next t) :
    t.ringLaws := by
  unfold execRingAccessFailed at he
  dsimp only at he
  split at he <;> cases he
  · exact (h.begin.setHand _).accessFailed _ _
  · exact h

theorem State.ringLaws.runEntryRing (h : s.ringLaws) (r : RingNo) : (s.runEntryRing r).ringLaws := by
  unfold State.runEntryRing
  split
  · next start =>
    obtain ⟨cfg, -⟩ := h r
    have started := Ring.law_start (k := (s.ring r).detachLanes) (RingConfig.startAtRun_wellFormed cfg start)
      (fun m => Lane.detach_ne_busy _ m) (fun m => Lane.detach_ne_busy _ m)
    exact ((h.setRing r started).setHand _).wakeRequests r
  · split
    · exact h
    · exact h

theorem State.ringLaws.foldl_runEntryRing : ∀ (l : List RingNo) {s : State}, s.ringLaws →
    (l.foldl State.runEntryRing s).ringLaws
  | [], _, h => h
  | r :: l, _, h => State.ringLaws.foldl_runEntryRing l (h.runEntryRing r)

theorem execRunEntryRings_ringLaws (h : s.ringLaws) (he : execRunEntryRings s = .next t) : t.ringLaws := by
  unfold execRunEntryRings at he
  split at he
  · rw [Host.Outcome.next.injEq] at he
    rw [← he]
    exact State.ringLaws.foldl_runEntryRing _ (h.begin.setHand _)
  · cases he
    exact h

theorem execStopRings_ringLaws (h : s.ringLaws) (he : execStopRings s = .next t) : t.ringLaws := by
  unfold execStopRings at he
  split at he <;> cases he
  · intro r
    have stopped := Ring.law_state (Ring.law_detachLanes (h r)) .off fun on => absurd rfl on
    simpa [State.ring] using stopped
  · exact h

/-! The notice writer's events -/

theorem State.ringLaws.createNotice (h : s.ringLaws) (n : Notice) : (s.createNotice n).ringLaws := by
  unfold State.createNotice
  dsimp only
  split
  · exact State.ringLaws.nwEvaluate h
  · exact h

theorem execNoticeHandoff_ringLaws {i : Nat} (h : s.ringLaws) (he : execNoticeHandoff i s = .next t) : t.ringLaws := by
  unfold execNoticeHandoff at he
  split at he
  · dsimp only at he
    split at he <;> cases he
    · exact (h.begin.setHand _).createNotice _
    · exact h
  · cases he
    exact h

theorem State.ringLaws.noticeResult (h : s.ringLaws) (x : NoticeResult) (sent : NoticeRecord) :
    (s.noticeResult x sent).ringLaws := by
  unfold State.noticeResult
  split
  · split
    · exact State.ringLaws.nwEvaluate h
    · exact State.ringLaws.nwEvaluate h
  · exact h

theorem execNoticeWriteResult_ringLaws (h : s.ringLaws) (he : execNoticeWriteResult s = .next t) : t.ringLaws := by
  unfold execNoticeWriteResult at he
  split at he <;> cases he
  · exact (h.begin.setHand _).noticeResult _ _
  · exact h

theorem execRunEntryNotices_ringLaws (h : s.ringLaws) (he : execRunEntryNotices s = .next t) : t.ringLaws := by
  unfold execRunEntryNotices at he
  split at he <;> cases he
  · exact (h.begin.setHand _).nwEvaluate
  · exact h

/-! The install of a table -/

/-- Checks 4 to 7 leave only ring records that are unconfigured or well formed (R25, R178). -/
theorem validateTable_configs {h : Header} {ws : Tbl WindowWords 32} {rws : RingNo → RingWords} {i : Image}
    (hok : validateTable h ws rws = .ok i) (r : RingNo) :
    i.configs.nth r = RingConfig.unconfigured ∨ ringWellFormed (i.configs.nth r) = true := by
  unfold validateTable at hok
  split at hok
  · cases hok
  split at hok
  · cases hok
  split at hok
  · cases hok
  next decoded =>
  dsimp only at hok
  split at hok
  · cases hok
  split at hok
  · split at hok <;> cases hok
    have present := find?_finRange_none decoded r
    rw [Tbl.nth_tabulate]
    cases record : decodeImageRing (rws r) with
    | none => simp [record] at present
    | some c => exact decodeImageRing_wellFormed record
  · cases hok

theorem validate_configs {ws : List Word} {i : Image} (h : validate ws = .ok i) (r : RingNo) :
    i.configs.nth r = RingConfig.unconfigured ∨ ringWellFormed (i.configs.nth r) = true := by
  unfold validate at h
  split at h
  · cases h
  · split at h
    · cases h
    · split at h
      · cases h
      · exact validateTable_configs h r

theorem State.install_ring (s : State) (i : Image) (r : RingNo) :
    (s.install i).ring r = (s.ring r).install (i.configs.nth r) := by
  simp [State.install, State.copyHeader, State.ring]

theorem State.ringLaws.finishLoad (h : s.ringLaws) (l : Load) (staging : List Byte) :
    (s.finishLoad l staging).ringLaws := by
  unfold State.finishLoad
  split
  · exact h.of_rings (by simp)
  · next i valid =>
    have installed : (s.install i).ringLaws := fun r => by
      rw [State.install_ring]
      exact Ring.law_install _ (validate_configs valid r)
    rw [State.completeLoad_eq]
    cases l.origin <;> exact installed

theorem execTableReadResult_ringLaws (h : s.ringLaws) (he : execTableReadResult s = .next t) : t.ringLaws := by
  unfold execTableReadResult at he
  split at he
  · dsimp only at he
    split at he <;> cases he
    · unfold State.tableReadDone
      split
      · exact h
      · exact (h.begin.setHand _).finishLoad _ _
    · exact h.of_rings (by simp)
    · exact h.of_rings (by simp)
  · cases he
    exact h

/-! Requests, results, cells and time, which leave every ring alone -/

theorem execUpstreamRequest_rings {rq : Request} (he : execUpstreamRequest m rq s = .next t) : t.rings = s.rings := by
  unfold execUpstreamRequest at he
  split at he
  · split at he <;> cases he <;> rfl
  · cases he

theorem execPassResult_rings (he : execPassResult m s = .next t) : t.rings = s.rings := by
  unfold execPassResult at he
  split at he
  · dsimp only at he
    split at he <;> cases he <;> simp
  · cases he
    rfl

theorem execQueueJoin_rings {src : Source} (he : execQueueJoin src s = .next t) : t.rings = s.rings := by
  unfold execQueueJoin at he
  dsimp only at he
  split at he <;> cases he <;> simp

theorem execDownstreamDone_rings {tag : BitVec 4} {data : List Byte} (he : execDownstreamDone tag data s = .next t) :
    t.rings = s.rings := by
  unfold execDownstreamDone at he
  split at he
  · split at he <;> cases he <;> simp
  · split at he <;> cases he <;> simp
  · cases he
    rfl

theorem execDownstreamRetry_rings {tag : BitVec 4} (he : execDownstreamRetry tag s = .next t) : t.rings = s.rings := by
  unfold execDownstreamRetry at he
  split at he
  · split at he
    · split at he <;> cases he <;> simp
    · cases he
      rfl
  · split at he <;> cases he <;> simp
  · cases he
    rfl

theorem execDownstreamFault_rings {tag : BitVec 4} (he : execDownstreamFault tag s = .next t) : t.rings = s.rings := by
  unfold execDownstreamFault at he
  split at he
  · split at he <;> cases he <;> simp
  · split at he <;> cases he <;> simp
  · cases he
    rfl

theorem execResponseTimeout_rings (he : execResponseTimeout s = .next t) : t.rings = s.rings := by
  unfold execResponseTimeout at he
  split at he
  · split at he <;> cases he <;> simp
  · cases he
    rfl
  · cases he
    rfl

theorem execSettlingEnd_rings (he : execSettlingEnd s = .next t) : t.rings = s.rings := by
  unfold execSettlingEnd at he
  split at he
  · split at he <;> cases he <;> simp
  · cases he
    rfl
  · cases he
    rfl

theorem execCadenceCommit_rings (he : execCadenceCommit r s = .next t) : t.rings = s.rings := by
  unfold execCadenceCommit at he
  dsimp only at he
  split at he
  · split at he <;> cases he
    · unfold State.cadenceCommit
      dsimp only
      split <;> simp
    · rfl
  · cases he
    rfl

theorem execWatchExpiry_rings (he : execWatchExpiry r s = .next t) : t.rings = s.rings := by
  unfold execWatchExpiry at he
  split at he
  · dsimp only at he
    split at he <;> cases he <;> simp
  · cases he
    rfl

theorem execTick_rings (he : execTick s = .next t) : t.rings = s.rings := by
  unfold execTick at he
  split at he <;> cases he <;> rfl

theorem execMillisecondStep_rings (he : execMillisecondStep s = .next t) : t.rings = s.rings := by
  unfold execMillisecondStep at he
  split at he <;> cases he <;> rfl

theorem execRingParkExpiry_rings {i : EntryNo} (he : execRingParkExpiry i s = .next t) : t.rings = s.rings := by
  unfold execRingParkExpiry at he
  split at he
  · split at he
    · split at he <;> cases he <;> simp [State.removeEntry]
    · cases he
      rfl
  · cases he
    rfl

theorem execClaimParkExpiry_rings {i : EntryNo} (he : execClaimParkExpiry i s = .next t) : t.rings = s.rings := by
  unfold execClaimParkExpiry at he
  split at he
  · split at he
    · cases he
      rfl
    · split at he <;> cases he <;> simp [State.removeEntry]
  · cases he
    rfl

theorem execLeaseExpiry_rings {c : CellNo} (he : execLeaseExpiry c s = .next t) : t.rings = s.rings := by
  unfold execLeaseExpiry at he
  split at he
  · split at he <;> cases he <;> simp
  · cases he
    rfl

theorem execDropOwnerships_rings {c : CellNo} (he : execDropOwnerships m c s = .next t) : t.rings = s.rings := by
  unfold execDropOwnerships at he
  split at he
  · dsimp only at he
    split at he <;> cases he <;> simp
  · cases he
    rfl

theorem execStopPool_rings (he : execStopPool s = .next t) : t.rings = s.rings := by
  unfold execStopPool at he
  split at he <;> cases he <;> simp

theorem execStopCells_rings (he : execStopCells s = .next t) : t.rings = s.rings := by
  unfold execStopCells at he
  split at he <;> cases he <;> simp

theorem execStopCadence_rings (he : execStopCadence r s = .next t) : t.rings = s.rings := by
  unfold execStopCadence at he
  split at he <;> cases he <;> rfl

theorem execCadenceRingStart_rings (he : execCadenceRingStart r s = .next t) : t.rings = s.rings := by
  unfold execCadenceRingStart at he
  split at he <;> cases he <;> rfl

theorem execPoolCancelRingStop_rings (he : execPoolCancelRingStop r s = .next t) : t.rings = s.rings := by
  unfold execPoolCancelRingStop at he
  split at he <;> cases he <;> simp

theorem execPoolCancelFreeze_rings (he : execPoolCancelFreeze r s = .next t) : t.rings = s.rings := by
  unfold execPoolCancelFreeze at he
  split at he <;> cases he <;> simp

theorem execHeaderCopy_rings (he : execHeaderCopy s = .next t) : t.rings = s.rings := by
  unfold execHeaderCopy at he
  split at he <;> cases he <;> rfl

theorem execResetNRelease_rings {st : Straps} (he : execResetNRelease st s = .next t) : t.rings = s.rings := by
  unfold execResetNRelease at he
  split at he <;> cases he <;> simp

theorem execPoll_rings {n : Nat} (he : execPoll s n = .next t) : t.rings = s.rings := by
  unfold execPoll at he
  split at he
  · cases he
    rfl
  · dsimp only at he
    split at he
    · split at he <;> cases he <;> rfl
    · cases he
      rfl

/-- What ends on an empty queue leaves the rings alone (R173). -/
@[simp] theorem State.idle_rings (s : State) : s.idle.rings = s.rings := by
  unfold State.idle
  split
  · split
    · exact s.begin.endReset_rings .command
    · rfl
  · rfl

/-! The management commands -/

variable {code : Byte} {owner : State → Reply}

theorem State.ringLaws.takeCommand (h : s.ringLaws) (ho : ∀ u : State, u.ringLaws → (owner u).state.ringLaws) :
    (s.begin.takeCommand code owner).ringLaws := by
  obtain ⟨ml, e | e⟩ := s.takeCommand_cases code owner
  · rw [e]
    exact h
  · rw [e]
    exact ho s.framed h

theorem shortCommand_ringLaws (h : s.ringLaws) (ho : ∀ u : State, u.ringLaws → (owner u).state.ringLaws)
    (he : shortCommand code owner s = .next t) : t.ringLaws := by
  cases he
  exact h.takeCommand ho

/-- A command whose owner leaves the rings alone. -/
theorem shortCommand_ringLaws_of_rings (h : s.ringLaws) (ho : ∀ u : State, (owner u).state.rings = u.rings)
    (he : shortCommand code owner s = .next t) : t.ringLaws :=
  shortCommand_ringLaws h (fun u hu => hu.of_rings (ho u)) he

theorem ownReadWindow_rings (b : Byte) (u : State) : (ownReadWindow b u).state.rings = u.rings := by
  unfold ownReadWindow
  split <;> rfl

theorem ownReadRing_rings (b : Byte) (u : State) : (ownReadRing b u).state.rings = u.rings := by
  unfold ownReadRing
  split <;> rfl

theorem ownReadCell_rings (b : Byte) (u : State) : (ownReadCell b u).state.rings = u.rings := by
  unfold ownReadCell
  split <;> rfl

theorem ownReadMaster_rings (b : Byte) (u : State) : (ownReadMaster b u).state.rings = u.rings := by
  unfold ownReadMaster
  split <;> rfl

theorem ownWriteHeader_rings (ws : Tbl Word 14) (u : State) : (ownWriteHeader ws u).state.rings = u.rings := by
  unfold ownWriteHeader
  split
  · rfl
  · split
    · rfl
    · split <;> rfl

theorem ownWriteWindow_rings (b : Byte) (e : WindowWords) (u : State) : (ownWriteWindow b e u).state.rings = u.rings := by
  unfold ownWriteWindow
  split
  · rfl
  · split
    · rfl
    · split
      · rfl
      · split
        · rfl
        · split <;> rfl

theorem ownFreeCell_rings (b : Byte) (u : State) : (ownFreeCell b u).state.rings = u.rings := by
  unfold ownFreeCell
  split
  · rfl
  · split
    · rfl
    · split
      · rfl
      · exact u.forceEnd_rings _ _ _

theorem ownSetPriority_rings (b p : Byte) (u : State) : (ownSetPriority b p u).state.rings = u.rings := by
  unfold ownSetPriority
  split
  · rfl
  · split <;> rfl

theorem ownReopenMaster_rings (b : Byte) (u : State) : (ownReopenMaster b u).state.rings = u.rings := by
  unfold ownReopenMaster
  split
  · rfl
  · split <;> rfl

theorem ownTakeNotice_rings (u : State) : (ownTakeNotice u).state.rings = u.rings := by
  unfold ownTakeNotice
  split <;> rfl

theorem ownSetMask_rings (b : Byte) (u : State) : (ownSetMask b u).state.rings = u.rings := by
  unfold ownSetMask
  split <;> rfl

theorem ownStop_rings (u : State) : (ownStop u).state.rings = u.rings := by
  unfold ownStop
  split <;> rfl

theorem ownStart_rings (u : State) : (ownStart u).state.rings = u.rings := by
  unfold ownStart
  split <;> rfl

theorem ownLoad_rings (addr : Word) (frame : Byte) (u : State) : (ownLoad addr frame u).state.rings = u.rings := by
  unfold ownLoad
  split
  · rfl
  · split <;> rfl

theorem ownWriteRing_ringLaws (b : Byte) (rec : RingWords) (u : State) (h : u.ringLaws) :
    (ownWriteRing b rec u).state.ringLaws := by
  unfold ownWriteRing
  split
  · exact h
  · split
    · next r c _ decoded =>
      split
      · exact h
      · next off =>
        split
        · exact h
        · split
          · exact h
          · next free =>
            simp only [not_or, not_not] at off free
            obtain ⟨producer, consumer⟩ := free
            have written : ({ (u.ring r).zeroCursors with cfg := c } : Ring).law :=
              Ring.law_zeroCursors (k := { u.ring r with cfg := c }) (Or.inr (decodeRingConfig_wellFormed decoded))
                (fun on => absurd off on) (fun m busy => by simp [producer] at busy) (fun m busy => by simp [consumer] at busy)
            exact h.setRing r written
    · exact h

theorem ownRingStart_ringLaws (b : Byte) (u : State) (h : u.ringLaws) : (ownRingStart b u).state.ringLaws := by
  unfold ownRingStart
  split
  · exact h
  · next r _ =>
    split
    · exact h
    · next allowed =>
      split
      · exact h
      · next free =>
        simp only [not_or, not_not] at allowed free
        obtain ⟨-, -, configured⟩ := allowed
        obtain ⟨producer, consumer⟩ := free
        obtain ⟨cfg, -⟩ := h r
        have started := Ring.law_start (k := u.ring r) (cfg.resolve_left configured) (fun m => by simp [producer])
          (fun m => by simp [consumer])
        exact ((h.setRing r started).setHand _).wakeRequests r

theorem ownRingStop_ringLaws (b : Byte) (u : State) (h : u.ringLaws) : (ownRingStop b u).state.ringLaws := by
  unfold ownRingStop
  split
  · exact h
  · next r _ =>
    split
    · exact h
    · exact h.setRing r (Ring.law_state (Ring.law_detachLanes (h r)) .off fun on => absurd rfl on)

theorem State.ringLaws.withdraw (h : s.ringLaws) (m : MasterNo) : (s.withdraw m).ringLaws := by
  have answered : ((s.removeQueued m).answer m (.fault .dropped)).ringLaws := h.of_rings (by simp [State.removeQueued])
  unfold State.withdraw
  dsimp only
  split
  · unfold State.releaseWithdrawn
    split
    · exact (answered.setLane _ _ (Lane.release_ne_busy _)).wakeRequests _
    · exact answered
    · exact answered
    · exact answered
  · exact answered

theorem State.ringLaws.dropRequest (h : s.ringLaws) (m : MasterNo) : (s.dropRequest m).ringLaws := by
  unfold State.dropRequest
  split
  · exact h.withdraw m
  · exact h.of_rings (State.cancelEntries_rings _ _ _)
  · exact h
  · exact h
  · exact h
  · exact h

theorem ownDropMaster_ringLaws (b : Byte) (u : State) (h : u.ringLaws) : (ownDropMaster b u).state.ringLaws := by
  unfold ownDropMaster
  split
  · exact h
  · next m _ =>
    split
    · exact h
    · have fenced : (u.setMaster m { u.master m with state := .fenced }).ringLaws := h
      exact ((fenced.setHand _).setHand _).dropRequest m

theorem ownClearStall_ringLaws (u : State) (h : u.ringLaws) : (ownClearStall u).state.ringLaws := by
  unfold ownClearStall
  split
  · exact State.ringLaws.nwEvaluate h
  · exact h
  · exact h

theorem ownReset_ringLaws (st : Straps) (frame : Byte) (u : State) : (ownReset st frame u).state.ringLaws :=
  State.reset_ringLaws

/-- Whatever the command, the rings meet their laws after it when they met them before. -/
theorem exec_ringLaws {c : Instr} (h : s.ringLaws) (he : exec c s = .next t) : t.ringLaws := by
  cases c with
  | upstreamRequest => exact h.of_rings (execUpstreamRequest_rings he)
  | admission => exact execAdmission_ringLaws h he
  | replay => exact execReplay_ringLaws h he
  | queueJoin => exact h.of_rings (execQueueJoin_rings he)
  | downstreamDone => exact h.of_rings (execDownstreamDone_rings he)
  | downstreamRetry => exact h.of_rings (execDownstreamRetry_rings he)
  | downstreamFault => exact h.of_rings (execDownstreamFault_rings he)
  | responseTimeout => exact h.of_rings (execResponseTimeout_rings he)
  | settlingEnd => exact h.of_rings (execSettlingEnd_rings he)
  | passResult => exact h.of_rings (execPassResult_rings he)
  | ringProducerDone => exact execRingProducerDone_ringLaws h he
  | ringConsumerDone => exact execRingConsumerDone_ringLaws h he
  | ringAccessFailed => exact execRingAccessFailed_ringLaws h he
  | noticeWriteResult => exact execNoticeWriteResult_ringLaws h he
  | cadenceCommit => exact h.of_rings (execCadenceCommit_rings he)
  | watchExpiry => exact h.of_rings (execWatchExpiry_rings he)
  | tick => exact h.of_rings (execTick_rings he)
  | ringParkExpiry => exact h.of_rings (execRingParkExpiry_rings he)
  | claimParkExpiry => exact h.of_rings (execClaimParkExpiry_rings he)
  | millisecondStep => exact h.of_rings (execMillisecondStep_rings he)
  | leaseExpiry => exact h.of_rings (execLeaseExpiry_rings he)
  | noticeHandoff => exact execNoticeHandoff_ringLaws h he
  | tableReadResult => exact execTableReadResult_ringLaws h he
  | runEntryRings => exact execRunEntryRings_ringLaws h he
  | runEntryNotices => exact execRunEntryNotices_ringLaws h he
  | stopRings => exact execStopRings_ringLaws h he
  | stopPool => exact h.of_rings (execStopPool_rings he)
  | stopCells => exact h.of_rings (execStopCells_rings he)
  | stopCadence => exact h.of_rings (execStopCadence_rings he)
  | cadenceRingStart => exact h.of_rings (execCadenceRingStart_rings he)
  | poolCancelRingStop => exact h.of_rings (execPoolCancelRingStop_rings he)
  | poolCancelFreeze => exact h.of_rings (execPoolCancelFreeze_rings he)
  | dropOwnerships => exact h.of_rings (execDropOwnerships_rings he)
  | headerCopy => exact h.of_rings (execHeaderCopy_rings he)
  | resetNAssert => cases he; exact State.reset_ringLaws
  | resetNRelease => exact h.of_rings (execResetNRelease_rings he)
  | commandFrameMalformed =>
    change execCommandFrameMalformed _ _ s = .next t at he
    unfold execCommandFrameMalformed at he
    split at he <;> cases he
    exact h.takeCommand fun _ hu => hu
  | poll => exact h.of_rings (execPoll_rings he)
  | status => exact shortCommand_ringLaws_of_rings h (fun _ => rfl) he
  | readHeader => exact shortCommand_ringLaws_of_rings h (fun _ => rfl) he
  | writeHeader ws => exact shortCommand_ringLaws_of_rings h (ownWriteHeader_rings ws) he
  | readWindow b => exact shortCommand_ringLaws_of_rings h (ownReadWindow_rings b) he
  | writeWindow b e => exact shortCommand_ringLaws_of_rings h (ownWriteWindow_rings b e) he
  | readRing b => exact shortCommand_ringLaws_of_rings h (ownReadRing_rings b) he
  | writeRing b rec => exact shortCommand_ringLaws h (ownWriteRing_ringLaws b rec) he
  | ringStart b => exact shortCommand_ringLaws h (ownRingStart_ringLaws b) he
  | ringStop b => exact shortCommand_ringLaws h (ownRingStop_ringLaws b) he
  | readCell b => exact shortCommand_ringLaws_of_rings h (ownReadCell_rings b) he
  | freeCell b => exact shortCommand_ringLaws_of_rings h (ownFreeCell_rings b) he
  | readMaster b => exact shortCommand_ringLaws_of_rings h (ownReadMaster_rings b) he
  | setPriority b p => exact shortCommand_ringLaws_of_rings h (ownSetPriority_rings b p) he
  | dropMaster b => exact shortCommand_ringLaws h (ownDropMaster_ringLaws b) he
  | reopenMaster b => exact shortCommand_ringLaws_of_rings h (ownReopenMaster_rings b) he
  | readPool => exact shortCommand_ringLaws_of_rings h (fun _ => rfl) he
  | takeNotice => exact shortCommand_ringLaws_of_rings h ownTakeNotice_rings he
  | setMask mask => exact shortCommand_ringLaws_of_rings h (ownSetMask_rings mask) he
  | clearStall => exact shortCommand_ringLaws h ownClearStall_ringLaws he
  | clearLost => exact shortCommand_ringLaws_of_rings h (fun _ => rfl) he
  | stop => exact shortCommand_ringLaws_of_rings h ownStop_rings he
  | start => exact shortCommand_ringLaws_of_rings h ownStart_rings he
  | load addr => exact shortCommand_ringLaws_of_rings h (ownLoad_rings addr s.ml.frame) he
  | reset st => exact shortCommand_ringLaws h (fun u _ => ownReset_ringLaws st s.ml.frame u) he

end RingLawCommands

end Sys2Proof.Machine

namespace Sys2Proof.Proofs

open Sys2Proof.Machine

/-- Settles O7: a step is the idling of an empty queue or one command, and each keeps every ring's laws. -/
theorem ringLawsKept : Obligations.RingLawsKept := by
  intro s t law h
  unfold step at h
  split at h
  · cases h
    exact law.of_rings (State.idle_rings s)
  · next c rest _ =>
    have without : { s with pending := rest }.ringLaws := law
    exact exec_ringLaws without h

end Sys2Proof.Proofs

namespace Sys2Proof.Machine

/-! ### What the handling of a ring request leaves, in the terms of the statements -/

section RingRequests

variable {s : State} {m : MasterNo} {rq : Request} {w : WindowNo} {r : RingNo} {side : Side} {i : EntryNo} {c : Cause}
  {k : Woken} {via : Option Woken} {reason : Reason}

theorem Dir.write_side {d : Dir} (h : d = .write) : Dir.side d = .producer := by rw [h]; rfl

theorem Dir.read_side {d : Dir} (h : d = .read) : Dir.side d = .consumer := by rw [h]; rfl

theorem State.laneFreed_of_free (h : (s.ring r).lane side = .free) : s.laneFreed r side = s := by
  unfold State.laneFreed
  rw [Ring.setLane_lane _ _ h, State.ring, Tbl.put_nth]

theorem State.begin_ringFault (ho : (s.master m).outst ≠ .none) :
    s.begin.ringFault m rq w r reason =
      (s.answered m (.fault reason)).noticed (faultNotice reason m rq.addr (some w) (.ring r)) :=
  State.begin_faultWithNotice s ho

/-- A ring access goes downstream with its lane BUSY, its request QUEUED (R36). -/
theorem State.forwardRing_busy (ho : (s.master m).outst ≠ .none) :
    (s.begin.setLane r side (.busy m false)).forwardRing m rq w r =
      { s.phased m (.queued rq) with rings := s.rings.put r ((s.ring r).setLane side (.busy m false)) }.joined
        (forwarded m rq (.ring r (Dir.side rq.dir) w)) :=
  State.forward_eq (s.begin.setLane r side (.busy m false)) m rq _ ho

/-- The oldest slot is dropped with its notice, and the write goes downstream (R35, R36). -/
theorem State.forwardRing_drop (ho : (s.master m).outst ≠ .none) (q : Ring) (n : Notice) :
    ((s.begin.setRing r q).giveNotice n).forwardRing m rq w r =
      ({ s.phased m (.queued rq) with rings := s.rings.put r q }.noticed n).joined
        (forwarded m rq (.ring r (Dir.side rq.dir) w)) :=
  State.forward_eq ((s.begin.setRing r q).giveNotice n) m rq _ ho

/-! Parking (R42, R61, R62) -/

theorem State.ringPark_first (ho : (s.master m).outst ≠ .none) (hi : s.freeEntry i) :
    s.begin.ringPark m rq w r c none =
      s.parkedAt i m rq w (.ring r (Dir.side rq.dir)) c (s.ring r).cfg.holdLimit := by
  unfold State.ringPark
  dsimp only
  rw [State.park_first s.begin m rq w _ c _ hi ho]
  rfl

theorem State.ringPark_again {pre post : List ParkEntry} (ho : (s.master m).outst ≠ .none) (hi : s.freeEntry i)
    (hl : s.hp.list = pre ++ post) (hpre : ∀ x ∈ pre, x.order < k.order) (hpost : ∀ x ∈ post, k.order < x.order) :
    s.begin.ringPark m rq w r c (some k) =
      { s.phased m (.parked rq) with
        hp :=
          { s.hp with
            list := pre ++
              ({ slot := i, master := m, rq := rq, window := k.window, target := .ring k.ring k.side, cause := c,
                 seq := k.seq, order := k.order, remaining := k.remaining } : ParkEntry) :: post } } := by
  unfold State.ringPark
  dsimp only
  rw [State.park_again s.begin m rq k.window _ c _ k hi ho, State.begin_hp, hl, insertByOrder_between _ hpre hpost]
  rfl

theorem State.ringPark_full (ho : (s.master m).outst ≠ .none) (hf : s.poolFull) :
    s.begin.ringPark m rq w r c via =
      (s.answered m (.fault .poolFull)).noticed (faultNotice .poolFull m rq.addr (some w) (.ring r)) := by
  unfold State.ringPark
  dsimp only
  rw [State.park_full s.begin m rq _ _ c _ via hf]
  exact State.begin_ringFault ho

/-! A request that is held or refused gives its lane up (R34, R39, R42, R45) -/

theorem State.begin_holdRing :
    s.begin.holdRing m rq w r c via =
      ((s.laneFreed r (Dir.side rq.dir)).begin.ringPark m rq w r c via).wakeRequests r := rfl

theorem State.begin_refuseRing (ho : (s.master m).outst ≠ .none) :
    s.begin.refuseRing m rq w r reason =
      (((s.answered m (.fault reason)).noticed (faultNotice reason m rq.addr (some w) (.ring r))).laneFreed r
        (Dir.side rq.dir)).wakeRequests r :=
  congrArg (State.wakeRequests · r) (State.begin_ringFault (s := s.laneFreed r (Dir.side rq.dir)) ho)

theorem State.begin_refuseRing_of_free (ho : (s.master m).outst ≠ .none) (free : (s.ring r).lane (Dir.side rq.dir) = .free) :
    s.begin.refuseRing m rq w r reason =
      ((s.answered m (.fault reason)).noticed (faultNotice reason m rq.addr (some w) (.ring r))).wakeRequests r := by
  rw [State.begin_refuseRing ho]
  exact congrArg (State.wakeRequests · r) (State.laneFreed_of_free (s := (s.answered m _).noticed _) free)

/-- A FILL read is answered at once, its lane given up and its fill counted (R40). -/
theorem State.answer_setRing (ho : (s.master m).outst ≠ .none) (q : Ring) (a : Answer) :
    (s.begin.setRing r q).answer m a = { s.answered m a with rings := s.rings.put r q } :=
  State.begin_answer (s.setRing r q) m a ho

/-- The fill word stands in each word of the data, least significant byte first (R40, R205). -/
theorem fillData_getElem? (word : Word) (len : Nat) {i : Nat} (hi : i < len / 4) {k : Nat} (hk : k < 4) :
    (fillData word len)[4 * i + k]? = (wordBytes word)[k]? := bytesOf_getElem? word (len / 4) i hi k hk

/-! Strays (R32, R33) -/

theorem State.stray_fault (ho : (s.master m).outst ≠ .none) (hp : (s.ring r).cfg.stray = .fault) :
    s.begin.stray m rq w r =
      ({ s.answered m (.fault .stray) with
          rings := s.rings.put r
            { (s.ring r).setLane (Dir.side rq.dir) .free with strays := (s.ring r).strays + 1 } }.noticed
        (faultNotice .stray m rq.addr (some w) (.ring r))).wakeRequests r := by
  unfold State.stray
  simp only [State.begin_ring, hp]
  exact congrArg (State.wakeRequests · r) (State.begin_ringFault (s := s.setRing r _) ho)

theorem State.stray_freeze (ho : (s.master m).outst ≠ .none) (hp : (s.ring r).cfg.stray = .freeze) {q : Ring}
    (hq : q = (s.ring r).setLane (Dir.side rq.dir) .free) :
    s.begin.stray m rq w r =
      { s.answered m (.fault .stray) with
        rings := s.rings.put r
          { q with
            state := .frozen, strays := q.strays + 1, producer := q.producer.detach, consumer := q.consumer.detach },
        hand :=
          { s.hand with
            notices := s.hand.notices ++
              [faultNotice .stray m rq.addr (some w) (.ring r),
               { kind := .frozen, master := m, window := some w, subject := .ring r, reason := none,
                 addr := some rq.addr, detail := .none }],
            cancelFreeze := s.hand.cancelFreeze.put r true,
            cadStop := s.hand.cadStop.put r true } } := by
  subst hq
  unfold State.stray
  simp only [State.begin_ring, hp, Ring.setLane_strays]
  have faulted : ∀ x : Ring, (s.begin.setRing r x).ringFault m rq w r .stray =
      ((s.setRing r x).answered m (.fault .stray)).noticed (faultNotice .stray m rq.addr (some w) (.ring r)) :=
    fun x => State.begin_ringFault (s := s.setRing r x) ho
  rw [faulted]
  simp [State.giveNotice, State.noticed, State.answered, State.setHand, State.setRing, State.master, Ring.detachLanes]

/-! A replay's reserved lane (R16, R45) -/

theorem State.dropReservation_reserved (h : (s.ring k.ring).lane k.side = .reserved m) :
    s.dropReservation m (some k) = (s.laneFreed k.ring k.side).wakeRequests k.ring := if_pos h

theorem elsewhere_here : elsewhere k.ring k.side (some k) = none := if_pos ⟨rfl, rfl⟩

end RingRequests

end Sys2Proof.Machine

namespace Sys2Proof.Machine

section RingRequests

variable {s : State} {m : MasterNo} {rq : Request} {w : WindowNo} {r : RingNo} {via : Option Woken}

theorem State.judge_ring (h : s.reaches m rq w) (hk : winKind (s.window w) = .ring) :
    s.judge m rq = .ring w (winRing (s.window w)) := by
  simp [State.judge_reaches s h, State.judgeKind, hk]

/-- A request in a RING window is handed to the ring tracker, whatever its role (R15). -/
theorem State.admission_of_ringKind (h : (s.master m).outst = .admitting rq) (hr : s.reaches m rq w)
    (hk : winKind (s.window w) = .ring) :
    exec (.admission m) s = .next (s.begin.ringHandle m rq w (winRing (s.window w)) none) := by
  rw [State.exec_admission s h, State.admit_ring]
  exact State.judge_ring hr hk

theorem State.ringHandle_noRole (h : winMember (s.window w) rq.dir m = false) :
    s.ringHandle m rq w r via = (s.ringFault m rq w r .access).dropReservation m via := by
  simp [State.ringHandle, h]

theorem State.ringHandle_off (h : winMember (s.window w) rq.dir m = true) (hs : (s.ring r).state = .off) :
    s.ringHandle m rq w r via = (s.ringFault m rq w r .ringOff).dropReservation m via := by
  simp [State.ringHandle, h, hs]

theorem State.ringHandle_frozen (h : winMember (s.window w) rq.dir m = true) (hs : (s.ring r).state = .frozen) :
    s.ringHandle m rq w r via = (s.ringFault m rq w r .ringFrozen).dropReservation m via := by
  simp [State.ringHandle, h, hs]

theorem State.ringHandle_running (h : winMember (s.window w) rq.dir m = true) (hs : (s.ring r).state = .running) :
    s.ringHandle m rq w r via =
      (s.laneCheck m rq w r via).dropReservation m (elsewhere r (Dir.side rq.dir) via) := by
  simp [State.ringHandle, h, hs]

theorem State.reachesRing.role {r : RingNo} (h : s.reachesRing m rq w r) : winMember (s.window w) rq.dir m = true := by
  obtain ⟨-, -, -, role⟩ := h
  exact role

/-! Replays (R16, R45, R123) -/

variable {k : Woken} {reason : Reason} {v : Option WindowNo} {a : Answer} {n : Notice} {e : QueueEntry}

theorem State.replay_of_notReady (h : (s.master m).outst = .laneHeld rq k) (hl : (s.ring k.ring).lane k.side = .reserved m)
    (hp : s.part ≠ .running) :
    exec (.replay m) s =
      .next (((s.answered m (.fault .notReady)).laneFreed k.ring k.side).wakeRequests k.ring) := by
  rw [State.exec_replay s h, State.takeAdmission, State.begin_judge, State.judge_notRunning hp]
  simp only [State.admissionFault, if_true]
  rw [State.begin_answer s m _ (Outstanding.ne_none_of_laneHeld h)]
  exact congrArg _ (State.dropReservation_reserved (s := s.answered m _) hl)

theorem State.replay_of_fault (h : (s.master m).outst = .laneHeld rq k) (hl : (s.ring k.ring).lane k.side = .reserved m)
    (hj : s.judge m rq = .fault reason v) (hr : reason ≠ .notReady) :
    exec (.replay m) s =
      .next ((((s.answered m (.fault reason)).noticed (faultNotice reason m rq.addr v .none)).laneFreed k.ring
        k.side).wakeRequests k.ring) := by
  rw [State.exec_replay s h, State.takeAdmission, State.begin_judge, hj]
  simp only [State.admissionFault, hr, if_false]
  rw [State.begin_faultWithNotice s (Outstanding.ne_none_of_laneHeld h)]
  exact congrArg _ (State.dropReservation_reserved (s := (s.answered m _).noticed _) hl)

theorem State.replay_of_forward (h : (s.master m).outst = .laneHeld rq k) (hl : (s.ring k.ring).lane k.side = .reserved m)
    (hj : s.judge m rq = .forward v) :
    exec (.replay m) s =
      .next ((((s.phased m (.queued rq)).joined (forwarded m rq (.pass v))).laneFreed k.ring k.side).wakeRequests
        k.ring) := by
  rw [State.exec_replay s h, State.takeAdmission, State.begin_judge, hj]
  dsimp only
  rw [State.forward_eq s.begin m rq _ (Outstanding.ne_none_of_laneHeld h)]
  exact congrArg _ (State.dropReservation_reserved (s := (s.phased m _).joined _) hl)

/-- A replay that the role or the ring's state turns away frees its lane (R16, R45). -/
theorem State.begin_ringFault_dropReservation (h : (s.master m).outst = .laneHeld rq k)
    (hl : (s.ring k.ring).lane k.side = .reserved m) :
    (s.begin.ringFault m rq w r reason).dropReservation m (some k) =
      (((s.answered m (.fault reason)).noticed (faultNotice reason m rq.addr (some w) (.ring r))).laneFreed k.ring
        k.side).wakeRequests k.ring := by
  rw [State.begin_ringFault (Outstanding.ne_none_of_laneHeld h)]
  exact State.dropReservation_reserved (s := (s.answered m _).noticed _) hl

theorem State.replay_of_ringKind (h : (s.master m).outst = .laneHeld rq k) (hr : s.reaches m rq w)
    (hk : winKind (s.window w) = .ring) :
    exec (.replay m) s = .next (s.begin.ringHandle m rq w (winRing (s.window w)) (some k)) := by
  rw [State.exec_replay s h, State.admit_ring]
  exact State.judge_ring hr hk

/-- A replay on the ring and direction that woke it comes to the lane check, which takes its reserved lane (R45). -/
theorem State.replay_of_running (h : (s.master m).outst = .laneHeld rq k) (hr : s.reachesRing m rq w k.ring)
    (hs : (s.ring k.ring).state = .running) (hd : Dir.side rq.dir = k.side) :
    exec (.replay m) s = .next (s.begin.laneCheck m rq w k.ring (some k)) := by
  rw [State.replay_of_ring s h hr, State.ringHandle_running (s := s.begin) hr.role hs, hd, elsewhere_here]
  rfl

end RingRequests

end Sys2Proof.Machine

namespace Sys2Proof.Proofs

open Sys2Proof.Machine

/-- Settles O23: the lane check passes, and the flow of the request's direction is open. -/
theorem ringAccessForwarded : Obligations.RingAccessForwarded := by
  intro m rq w r s h reached on cursor
  have ho := Outstanding.ne_none_of_admitting h
  refine ⟨fun hd free room => ?_, fun hd free stocked => ?_⟩
  · have side : Dir.side rq.dir = .producer := Dir.write_side hd
    rw [State.admission_of_running s h reached on, State.laneCheck_write (s := s.begin) side (Or.inl free) cursor,
      State.producerFlow_open (s := s.begin) room, State.forwardRing_busy ho, side]
    rfl
  · have side : Dir.side rq.dir = .consumer := Dir.read_side hd
    rw [State.admission_of_running s h reached on, State.laneCheck_read (s := s.begin) side (Or.inl free) cursor,
      State.consumerFlow_open (s := s.begin) stocked, State.forwardRing_busy ho, side]
    rfl

/-- Settles O24: the checks of the role, of the ring's state and of the lane, each before the next. -/
theorem ringRequestsTurnedAway : Obligations.RingRequestsTurnedAway := by
  intro m rq w s h reached kind
  have ho := Outstanding.ne_none_of_admitting h
  refine ⟨fun role => ?_, fun r member => ⟨fun off => ?_, fun frozen => ?_,
    fun on busy reserved => ⟨fun i free => ?_, fun full => ?_⟩⟩⟩
  · rw [State.admission_of_ringKind h reached kind, State.ringHandle_noRole (s := s.begin) role, State.begin_ringFault ho]
    rfl
  · rw [State.admission_of_ring s h member, State.ringHandle_off (s := s.begin) member.role off, State.begin_ringFault ho]
    rfl
  · rw [State.admission_of_ring s h member, State.ringHandle_frozen (s := s.begin) member.role frozen, State.begin_ringFault ho]
    rfl
  · rw [State.admission_of_running s h member on, State.laneCheck_taken (s := s.begin) busy reserved,
      State.ringPark_first ho free]
  · rw [State.admission_of_running s h member on, State.laneCheck_taken (s := s.begin) busy reserved,
      State.ringPark_full ho full]

/-- Settles O25: the two stray policies, on a lane that was FREE before. -/
theorem straysFaultOrFreeze : Obligations.StraysFaultOrFreeze := by
  intro m rq w r s h reached on free miss
  have ho := Outstanding.ne_none_of_admitting h
  have same : (s.ring r).setLane (Dir.side rq.dir) .free = s.ring r := Ring.setLane_lane _ _ free
  rw [State.admission_of_running s h reached on, State.laneCheck_stray (s := s.begin) (Or.inl free) miss]
  refine ⟨fun policy => ?_, fun policy => ?_⟩
  · rw [State.stray_fault ho policy, same]
  · rw [State.stray_freeze ho policy same.symm]

/-- Settles O26: a full ring's write, policy by policy; the lane it gives up was FREE before. -/
theorem fullRingFollowsOverrunPolicy : Obligations.FullRingFollowsOverrunPolicy := by
  intro m rq w r s h reached on hd free cursor full
  have ho := Outstanding.ne_none_of_admitting h
  have side : Dir.side rq.dir = .producer := Dir.write_side hd
  have idle : (s.ring r).lane (Dir.side rq.dir) = .free := by rw [side]; exact free
  have freed : s.laneFreed r (Dir.side rq.dir) = s := State.laneFreed_of_free idle
  rw [State.admission_of_running s h reached on, State.laneCheck_write (s := s.begin) side (Or.inl free) cursor]
  refine ⟨fun policy => ?_, fun policy => ?_, fun policy consumer => ?_, fun policy consumer i entry => ?_,
    fun policy consumer none => ?_⟩
  · rw [State.producerFlow_hold (s := s.begin) side full.ge policy, State.begin_holdRing, freed]
    refine ⟨fun i entry => ?_, fun none => ?_⟩
    · rw [State.ringPark_first ho entry, side]
    · rw [State.ringPark_full ho none]
  · rw [State.producerFlow_refuse (s := s.begin) side full.ge policy, State.begin_refuseRing_of_free ho idle]
  · rw [State.producerFlow_drop (s := s.begin) full.ge policy consumer, State.forwardRing_drop ho, side]
    rfl
  · rw [State.producerFlow_wait (s := s.begin) side full.ge policy consumer, State.begin_holdRing, freed,
      State.ringPark_first ho entry, side]
  · rw [State.producerFlow_wait (s := s.begin) side full.ge policy consumer, State.begin_holdRing, freed,
      State.ringPark_full ho none]

/-- Settles O27: an empty ring's read, policy by policy; the lane it gives up was FREE before. -/
theorem emptyRingFollowsUnderrunPolicy : Obligations.EmptyRingFollowsUnderrunPolicy := by
  intro m rq w r s h reached on hd free cursor empty
  have ho := Outstanding.ne_none_of_admitting h
  have side : Dir.side rq.dir = .consumer := Dir.read_side hd
  have idle : (s.ring r).lane (Dir.side rq.dir) = .free := by rw [side]; exact free
  have freed : s.laneFreed r (Dir.side rq.dir) = s := State.laneFreed_of_free idle
  rw [State.admission_of_running s h reached on, State.laneCheck_read (s := s.begin) side (Or.inl free) cursor]
  refine ⟨fun policy => ?_, fun policy => ?_, fun policy => ?_⟩
  · rw [State.consumerFlow_hold (s := s.begin) side empty policy, State.begin_holdRing, freed]
    refine ⟨fun i entry => ?_, fun none => ?_⟩
    · rw [State.ringPark_first ho entry, side]
    · rw [State.ringPark_full ho none]
  · rw [State.consumerFlow_refuse (s := s.begin) side empty policy, State.begin_refuseRing_of_free ho idle]
  · have same : ({ s.ring r with consumer := .free, fills := (s.ring r).fills + 1 } : Ring) =
        { s.ring r with fills := (s.ring r).fills + 1 } := by rw [← free]
    have byte := fun (i : Nat) (hi : i < rq.len / 4) (k : Nat) (hk : k < 4) =>
      fillData_getElem? (s.ring r).cfg.fillWord rq.len hi hk
    refine ⟨fillData (s.ring r).cfg.fillWord rq.len, ?_, by simp [fillData],
      fun i hi => ⟨byte i hi 0 (by decide), byte i hi 1 (by decide), byte i hi 2 (by decide), byte i hi 3 (by decide)⟩⟩
    rw [State.consumerFlow_fill (s := s.begin) empty policy, State.begin_ring, State.answer_setRing ho, same]

end Sys2Proof.Proofs

namespace Sys2Proof.Machine

/-! ### A woken request that holds its reserved lane (R45) -/

section Replay

variable {s : State} {m : MasterNo} {rq : Request} {w : WindowNo} {k : Woken} {i : EntryNo} {c : Cause}

/-- A woken write at its cursor comes to the producer's flow check with its lane BUSY (R45). -/
theorem State.replay_write (hl : (s.ring k.ring).lane k.side = .reserved m) (hd : Dir.side rq.dir = k.side)
    (hp : Dir.side rq.dir = .producer) (hc : s.atCursor rq w k.ring) :
    s.begin.laneCheck m rq w k.ring (some k) =
      (s.begin.setLane k.ring .producer (.busy m false)).producerFlow m rq w k.ring (some k) := by
  rw [← hd, hp] at hl
  exact State.laneCheck_write (s := s.begin) hp (Or.inr hl) hc

/-- A woken read at its cursor comes to the consumer's flow check with its lane BUSY (R45). -/
theorem State.replay_read (hl : (s.ring k.ring).lane k.side = .reserved m) (hd : Dir.side rq.dir = k.side)
    (hp : Dir.side rq.dir = .consumer) (hc : s.atCursor rq w k.ring) :
    s.begin.laneCheck m rq w k.ring (some k) =
      (s.begin.setLane k.ring .consumer (.busy m false)).consumerFlow m rq w k.ring (some k) := by
  rw [← hd, hp] at hl
  exact State.laneCheck_read (s := s.begin) hp (Or.inr hl) hc

theorem State.replay_held_parks {pre post : List ParkEntry} (ho : (s.master m).outst ≠ .none)
    (hd : Dir.side rq.dir = k.side) (hi : s.freeEntry i)
    (hl : s.hp.list = pre ++ post) (hpre : ∀ x ∈ pre, x.order < k.order) (hpost : ∀ x ∈ post, k.order < x.order) :
    s.begin.holdRing m rq w k.ring c (some k) =
      ({ s.phased m (.parked rq) with
          hp :=
            { s.hp with
              list := pre ++
                ({ slot := i, master := m, rq := rq, window := k.window, target := .ring k.ring k.side, cause := c,
                   seq := k.seq, order := k.order, remaining := k.remaining } : ParkEntry) :: post } }.laneFreed k.ring
        k.side).wakeRequests k.ring := by
  rw [State.begin_holdRing, State.ringPark_again (s := s.laneFreed k.ring (Dir.side rq.dir)) ho hi hl hpre hpost, hd]
  rfl

theorem State.replay_held_full (ho : (s.master m).outst ≠ .none) (hd : Dir.side rq.dir = k.side) (hf : s.poolFull) :
    s.begin.holdRing m rq w k.ring c (some k) =
      (((s.answered m (.fault .poolFull)).noticed
        (faultNotice .poolFull m rq.addr (some w) (.ring k.ring))).laneFreed k.ring k.side).wakeRequests k.ring := by
  rw [State.begin_holdRing, State.ringPark_full (s := s.laneFreed k.ring (Dir.side rq.dir)) ho hf, hd]
  rfl

end Replay

end Sys2Proof.Machine

namespace Sys2Proof.Proofs

open Sys2Proof.Machine

/-- Settles O28: the two tests of a wake request, and the winner's move out of the pool. -/
theorem wakeRequestsReserveLanes : Obligations.WakeRequestsReserveLanes := by
  intro r s
  refine ⟨fun off => if_neg off, fun on => if_pos on, fun bound => if_pos ⟨rfl, bound⟩, fun side asked =>
    ⟨fun closed => ?_, fun none => ?_, fun e wakes wins waits => ?_⟩⟩
  · have shut : ¬ (s.ring r).wakeCondition side = true := fun h => closed ((Ring.wakeCondition_iff _ _).1 h)
    rw [State.wakeSide, if_neg asked, if_neg shut]
  · rw [State.wakeSide, if_neg asked, none]
    exact ite_self s
  · rw [State.wakeSide, if_neg asked, if_pos ((Ring.wakeCondition_iff _ _).2 wakes), wins]
    dsimp only
    rw [State.takeWinner_eq_erase s wins]
    exact State.setOutst_eq _ _ _ waits

/-- Settles O30: the replay's verdict, then the lane, the cursor and the flow of its own ring. -/
theorem replaysUseTheirReservedLane : Obligations.ReplaysUseTheirReservedLane := by
  intro m rq k s h reserved
  have ho := Outstanding.ne_none_of_laneHeld h
  refine ⟨State.replay_of_notReady h reserved, fun reason v => State.replay_of_fault h reserved,
    fun v => State.replay_of_forward h reserved,
    fun running nonzero fenced => State.replay_of_fault h reserved (State.judge_fenced running nonzero fenced) (by decide),
    fun w reached kind role => ?_, fun w r reason reached state => ?_, fun w reached on side => ?_⟩
  · rw [State.replay_of_ringKind h reached kind, State.ringHandle_noRole (s := s.begin) role,
      State.begin_ringFault_dropReservation h reserved]
  · rcases state with ⟨off, rfl⟩ | ⟨frozen, rfl⟩
    · rw [State.replay_of_ring s h reached, State.ringHandle_off (s := s.begin) reached.role off,
        State.begin_ringFault_dropReservation h reserved]
    · rw [State.replay_of_ring s h reached, State.ringHandle_frozen (s := s.begin) reached.role frozen,
        State.begin_ringFault_dropReservation h reserved]
  · have own : (s.ring k.ring).lane (Dir.side rq.dir) = .reserved m := by rw [side]; exact reserved
    rw [State.replay_of_running h reached on side]
    refine ⟨fun miss policy => ?_, fun miss policy => ⟨_, rfl, ?_⟩, fun cursor => ⟨fun open' => ?_,
      fun hd full policy consumer => ?_, fun reason policy => ?_, fun hd empty policy => ?_, fun cause policy => ?_⟩⟩
    · rw [State.laneCheck_stray (s := s.begin) (Or.inr own) miss, State.stray_fault ho policy, side]
    · rw [State.laneCheck_stray (s := s.begin) (Or.inr own) miss, State.stray_freeze ho policy rfl, side]
    · rcases open' with ⟨hd, room⟩ | ⟨hd, stocked⟩
      · have producer := Dir.write_side hd
        rw [State.replay_write reserved side producer cursor, State.producerFlow_open (s := s.begin) room,
          State.forwardRing_busy ho, producer, ← side, producer]
      · have consumer := Dir.read_side hd
        rw [State.replay_read reserved side consumer cursor, State.consumerFlow_open (s := s.begin) stocked,
          State.forwardRing_busy ho, consumer, ← side, consumer]
    · have producer := Dir.write_side hd
      rw [State.replay_write reserved side producer cursor, State.producerFlow_drop (s := s.begin) full policy consumer,
        State.forwardRing_drop ho, producer]
      rfl
    · rcases policy with ⟨hd, full, refuse, rfl⟩ | ⟨hd, empty, refuse, rfl⟩
      · have producer := Dir.write_side hd
        rw [State.replay_write reserved side producer cursor, State.producerFlow_refuse (s := s.begin) producer full refuse,
          State.begin_refuseRing ho, side]
      · have consumer := Dir.read_side hd
        rw [State.replay_read reserved side consumer cursor, State.consumerFlow_refuse (s := s.begin) consumer empty refuse,
          State.begin_refuseRing ho, side]
    · have consumer := Dir.read_side hd
      rw [State.replay_read reserved side consumer cursor, State.consumerFlow_fill (s := s.begin) empty policy,
        State.answer_setRing ho]
      rfl
    · have waits : s.begin.laneCheck m rq w k.ring (some k) = s.begin.holdRing m rq w k.ring cause (some k) := by
        rcases policy with ⟨hd, full, hold, rfl⟩ | ⟨hd, full, overwrite, consumer, rfl⟩ | ⟨hd, empty, hold, rfl⟩
        · have producer := Dir.write_side hd
          rw [State.replay_write reserved side producer cursor, State.producerFlow_hold (s := s.begin) producer full hold]
        · have producer := Dir.write_side hd
          rw [State.replay_write reserved side producer cursor,
            State.producerFlow_wait (s := s.begin) producer full overwrite consumer]
        · have consumer := Dir.read_side hd
          rw [State.replay_read reserved side consumer cursor, State.consumerFlow_hold (s := s.begin) consumer empty hold]
      rw [waits]
      exact ⟨fun i pre post entry list before after =>
        congrArg _ (State.replay_held_parks ho side entry list before after),
        fun none => congrArg _ (State.replay_held_full ho side none)⟩

end Sys2Proof.Proofs

namespace Sys2Proof.Machine

/-! ### The completions of ring accesses (R37, R38, R41, R49) -/

section Completions

variable {s u : State} {r : RingNo} {side : Side} {m q : MasterNo} {d : Bool} {rq : Request} {w v : WindowNo} {x : DownResult}
  {e : QueueEntry} {p : DownResult → Bool}

/-- The state in which the owner of a result handles it: the result has left the hand-offs, and nothing is driven. -/
abbrev State.resultTaken (s : State) (x : DownResult) : State :=
  s.begin.setHand { s.hand with results := s.hand.results.erase x }

theorem State.takeResult_eq (h : s.hand.results.find? p = some x) : s.begin.takeResult p = s.resultTaken x := by
  unfold State.takeResult
  rw [State.begin_hand, eraseP_eq_erase_of_find? h]

theorem State.exec_ringProducerDone
    (h : s.hand.results.find? (fun y => y.forRing r .producer && y.ending.isDone) = some x) :
    exec (.ringProducerDone r) s = .next ((s.resultTaken x).producerDone r x.entry) := by
  rw [← State.takeResult_eq h]
  simp only [exec, execRingProducerDone, h]

theorem State.exec_ringConsumerDone {data : List Byte}
    (h : s.hand.results.find? (fun y => y.forRing r .consumer && y.ending.isDone) = some x) (hx : x.ending = .done data) :
    exec (.ringConsumerDone r) s = .next ((s.resultTaken x).consumerDone r x.entry data) := by
  rw [← State.takeResult_eq h]
  simp only [exec, execRingConsumerDone, h, hx]

theorem State.exec_ringAccessFailed
    (h : s.hand.results.find? (fun y => y.forRing r side && !y.ending.isDone) = some x) :
    exec (.ringAccessFailed r side) s = .next ((s.resultTaken x).accessFailed r side x.entry x.ending) := by
  rw [← State.takeResult_eq h]
  simp only [exec, execRingAccessFailed, h]

/-! The ring's part, whoever made the access -/

/-- An attached write that does not fill its slot (R37). -/
theorem State.producerDone_advance (hb : (u.ring r).producer = .busy q false)
    (hn : (u.ring r).wo + e.len ≠ (u.ring r).cfg.slotSize) :
    u.producerDone r e =
      (((u.setRing r { u.ring r with producer := .free, wo := (u.ring r).wo + e.len }).answerSource e.source
        (.done [])).noteDetached r e.source false).wakeRequests r := by
  simp [State.producerDone, hb, Lane.isDetached, Lane.release, Ring.producerAdvance, hn]

/-- An attached write that fills its slot: the slot is committed and CM signalled (R37, R106). -/
theorem State.producerDone_commit (hb : (u.ring r).producer = .busy q false)
    (hn : (u.ring r).wo + e.len = (u.ring r).cfg.slotSize) (hv : u.boundWindow r = some v) :
    u.producerDone r e =
      ((({ u with
          rings := u.rings.put r
            { u.ring r with
              producer := .free, wi := ((u.ring r).wi + 1) % (u.ring r).cfg.slotCount, wo := 0,
              fill := (u.ring r).fill + 1, commits := (u.ring r).commits + 1 },
          hand :=
            { u.hand with
              commits := u.hand.commits ++
                [({ ring := r, master := Source.masterNo e.source,
                    addr := slotAddr (winBase (u.window v)) (u.ring r) (u.ring r).wi } : CommitSignal)] } } :
        State).answerSource e.source (.done [])).noteDetached r e.source false).wakeRequests r := by
  simp [State.producerDone, hb, Lane.isDetached, Lane.release, Ring.producerAdvance, hn, State.ringBase_of hv (t := u) rfl,
    State.signalCommit_of (s := u) (t := u.setRing r _) _ _ hv rfl]
  rfl

/-- A detached write changes nothing but its lane (R49). -/
theorem State.producerDone_detached (hb : (u.ring r).producer = .busy q true) :
    u.producerDone r e =
      (((u.setRing r { u.ring r with producer := .free }).answerSource e.source
        (.done [])).noteDetached r e.source true).wakeRequests r := by
  simp [State.producerDone, hb, Lane.isDetached, Lane.release]

/-- An attached read that does not drain its slot (R41). -/
theorem State.consumerDone_advance {data : List Byte} (hb : (u.ring r).consumer = .busy q false)
    (hn : (u.ring r).ro + e.len ≠ (u.ring r).cfg.slotSize) :
    u.consumerDone r e data =
      ((u.setRing r { u.ring r with consumer := .free, ro := (u.ring r).ro + e.len }).answerSource e.source
        (.done data)).wakeRequests r := by
  simp [State.consumerDone, hb, Lane.isDetached, Lane.release, Ring.consumerAdvance, hn]

/-- An attached read that drains its slot: the slot is released (R41). -/
theorem State.consumerDone_release {data : List Byte} (hb : (u.ring r).consumer = .busy q false)
    (hn : (u.ring r).ro + e.len = (u.ring r).cfg.slotSize) :
    u.consumerDone r e data =
      ((u.setRing r
          { u.ring r with
            consumer := .free, ri := ((u.ring r).ri + 1) % (u.ring r).cfg.slotCount, ro := 0,
            fill := (u.ring r).fill - 1, releases := (u.ring r).releases + 1 }).answerSource e.source
        (.done data)).wakeRequests r := by
  simp [State.consumerDone, hb, Lane.isDetached, Lane.release, Ring.consumerAdvance, hn]

/-- A detached read changes nothing but its lane (R49). -/
theorem State.consumerDone_detached {data : List Byte} (hb : (u.ring r).consumer = .busy q true) :
    u.consumerDone r e data =
      ((u.setRing r { u.ring r with consumer := .free }).answerSource e.source (.done data)).wakeRequests r := by
  simp [State.consumerDone, hb, Lane.isDetached, Lane.release]

/-- A failed access frees its lane, detached or not (R38, R49). -/
theorem State.accessFailed_busy {ending : Ending} (hb : (u.ring r).lane side = .busy q d) :
    u.accessFailed r side e ending =
      ((((u.laneFreed r side).answerSource e.source ending.toAnswer).noticeSource e ending (.ring r)).noteDetached r
        e.source d).wakeRequests r := by
  simp [State.accessFailed, hb, Lane.isDetached, Lane.release]
  rfl

/-! The part of the access's source -/

/-- A master in flight is answered; nothing else of what was done for its access changes (R119, R144). -/
theorem State.answerSource_master (h : (s.master m).outst = .inFlight rq) (rings : Tbl Ring 8) (hand : HandOffs) (a : Answer) :
    ({ s.quiet with rings := rings, hand := hand } : State).answerSource (.master m) a =
      { s.answered m a with rings := rings, hand := hand } := by
  have flight : (({ s.quiet with rings := rings, hand := hand } : State).master m).outst = .inFlight rq := h
  simp only [State.answerSource, flight]
  exact State.answer_eq _ m a (by rw [flight]; simp)

/-- RT leaves word of the lane's mark on NW's waiting result, when it has one of this ring (R145, log 16). -/
theorem State.noteDetached_noticeWriter :
    u.noteDetached r .noticeWriter d =
      u.setHand
        { u.hand with
          nwResult := u.hand.nwResult.map fun y : NoticeResult =>
            if y.ring = r then { y with detached := some d } else y } := by
  unfold State.noteDetached
  split
  · next y waiting =>
    rw [waiting]
    split
    · next own => simp [own]
    · next other =>
      simp only [Option.map_some, if_neg other]
      rw [← waiting]
      rfl
  · next none =>
    cases waiting : u.hand.nwResult with
    | some y => exact absurd waiting (none y rfl)
    | none =>
      rw [Option.map_none, ← waiting]
      rfl

/-- The notice of a master's failed access carries the window it was admitted under (R52, log 15). -/
theorem State.noticeSource_master {ending : Ending} {sub : Subject} (h : e.source = .master m)
    (hp : e.purpose = .ring r side w) :
    u.noticeSource e ending sub = u.noticed (faultNotice ending.reason m e.addr (some w) sub) := by
  simp only [State.noticeSource, h, hp, Purpose.window]
  rfl

theorem State.noticeSource_noticeWriter {ending : Ending} {sub : Subject} (h : e.source = .noticeWriter) :
    u.noticeSource e ending sub = u := by
  simp only [State.noticeSource, h]

theorem next_wakeRequests {t : State} (h : t = u) (r : RingNo) :
    (.next (t.wakeRequests r) : Host.Outcome State Fault Refusal) = .next (u.wakeRequests r) := by rw [h]

end Completions

end Sys2Proof.Machine

namespace Sys2Proof.Proofs

open Sys2Proof.Machine

/-- Settles O36: the three cases of the lane and the slot, each answered to the master whose write it was. -/
theorem producerDoneAdvancesOrCommits : Obligations.ProducerDoneAdvancesOrCommits := by
  intro r m q rq w x data s taken source _ _ flight
  rw [State.exec_ringProducerDone taken]
  refine ⟨fun busy short => ?_, fun v busy full bound => ?_, fun busy => ?_⟩
  · rw [State.producerDone_advance (u := s.resultTaken x) busy short, source]
    exact next_wakeRequests (State.answerSource_master flight _ _ _) r
  · rw [State.producerDone_commit (u := s.resultTaken x) busy full bound, source]
    exact next_wakeRequests (State.answerSource_master flight _ _ _) r
  · rw [State.producerDone_detached (u := s.resultTaken x) busy, source]
    exact next_wakeRequests (State.answerSource_master flight _ _ _) r

/-- Settles O37: the same three cases with no answer upstream, and the word RT leaves for NW. -/
theorem noticeWriteCommitsLikeAnyWrite : Obligations.NoticeWriteCommitsLikeAnyWrite := by
  intro r q d x data s taken source _ _ busy
  rw [State.exec_ringProducerDone taken]
  refine ⟨fun keeps => ?_, fun v attached full bound => ?_⟩
  · cases d with
    | true =>
      rw [State.producerDone_detached (u := s.resultTaken x) busy, source, State.noteDetached_noticeWriter]
      rfl
    | false =>
      rw [State.producerDone_advance (u := s.resultTaken x) busy (keeps.resolve_left Bool.false_ne_true), source,
        State.noteDetached_noticeWriter]
      rfl
  · subst attached
    rw [State.producerDone_commit (u := s.resultTaken x) busy full bound, source, State.noteDetached_noticeWriter]
    rfl

/-- Settles O38: the three cases of the lane and the slot, each answered with the data. -/
theorem consumerDoneAdvancesOrReleases : Obligations.ConsumerDoneAdvancesOrReleases := by
  intro r m q rq w x data s taken source _ done flight
  rw [State.exec_ringConsumerDone taken done]
  refine ⟨fun busy short => ?_, fun busy full => ?_, fun busy => ?_⟩
  · rw [State.consumerDone_advance (u := s.resultTaken x) busy short, source]
    exact next_wakeRequests (State.answerSource_master flight _ _ _) r
  · rw [State.consumerDone_release (u := s.resultTaken x) busy full, source]
    exact next_wakeRequests (State.answerSource_master flight _ _ _) r
  · rw [State.consumerDone_detached (u := s.resultTaken x) busy, source]
    exact next_wakeRequests (State.answerSource_master flight _ _ _) r

/-- Settles O39: the lane is given up and the source told, whatever the lane's mark. -/
theorem failedRingAccessKeepsCursors : Obligations.FailedRingAccessKeepsCursors := by
  refine ⟨fun r q d x s taken source _ _ busy => ?_,
    fun r side m q d rq w x s taken source purpose flight busy reason ended => ?_⟩
  · rw [State.exec_ringAccessFailed taken, State.accessFailed_busy (u := s.resultTaken x) (side := .producer) busy,
      State.noticeSource_noticeWriter source, source, State.noteDetached_noticeWriter]
    rfl
  · have answered := State.answerSource_master flight
      (s.rings.put r ((s.ring r).setLane side .free)) { s.hand with results := s.hand.results.erase x } (.fault reason)
    have told := congrArg (State.noticed · (faultNotice reason m x.entry.addr (some w) (.ring r))) answered
    rw [State.exec_ringAccessFailed taken, State.accessFailed_busy (u := s.resultTaken x) busy,
      State.noticeSource_master source purpose, source]
    rcases ended with ⟨ended, rfl⟩ | ⟨ended, rfl⟩
    all_goals
      rw [ended]
      exact next_wakeRequests told r

end Sys2Proof.Proofs

namespace Sys2Proof.Machine

/-! ### RING_START, RING_STOP and what the blocks do when they are told -/

section RingCommands

variable {s u : State} {r : RingNo} {b : Byte}

theorem ownRingStart_badArg (h : 8 ≤ b.toNat) : ownRingStart b u = refuse u .badArg := by
  rw [ownRingStart, numArg_big h]

theorem ownRingStop_badArg (h : 8 ≤ b.toNat) : ownRingStop b u = refuse u .badArg := by
  rw [ownRingStop, numArg_big h]

theorem ownRingStart_badState
    (h : u.part ≠ .running ∨ (u.ring r).state = .running ∨ (u.ring r).cfg = RingConfig.unconfigured) :
    ownRingStart (BitVec.ofNat 8 r.val) u = refuse u .badState := by
  rw [ownRingStart, numArg_val r (by decide)]
  exact if_pos h

theorem ownRingStart_busy (hp : u.part = .running) (hs : (u.ring r).state ≠ .running)
    (hc : (u.ring r).cfg ≠ RingConfig.unconfigured) (h : (u.ring r).producer ≠ .free ∨ (u.ring r).consumer ≠ .free) :
    ownRingStart (BitVec.ofNat 8 r.val) u = refuse u .busy := by
  rw [ownRingStart, numArg_val r (by decide)]
  exact (if_neg (by simp [hp, hs, hc])).trans (if_pos h)

theorem ownRingStart_accept (hp : u.part = .running) (hs : (u.ring r).state ≠ .running)
    (hc : (u.ring r).cfg ≠ RingConfig.unconfigured) (h1 : (u.ring r).producer = .free) (h2 : (u.ring r).consumer = .free) :
    ownRingStart (BitVec.ofNat 8 r.val) u =
      accept (((u.setRing r { (u.ring r).zeroCursors.zeroCounters with state := .running }).setHand
        { u.hand with cadStart := u.hand.cadStart.put r true }).wakeRequests r) := by
  rw [ownRingStart, numArg_val r (by decide)]
  exact (if_neg (by simp [hp, hs, hc])).trans (if_neg (by simp [h1, h2]))

theorem ownRingStop_badState (h : u.part ≠ .running ∨ (u.ring r).state = .off) :
    ownRingStop (BitVec.ofNat 8 r.val) u = refuse u .badState := by
  rw [ownRingStop, numArg_val r (by decide)]
  exact if_pos h

theorem ownRingStop_accept (hp : u.part = .running) (hs : (u.ring r).state ≠ .off) :
    ownRingStop (BitVec.ofNat 8 r.val) u =
      accept ((u.setRing r { (u.ring r).detachLanes with state := .off }).setHand
        { u.hand with cancelStop := u.hand.cancelStop.put r true, cadStop := u.hand.cadStop.put r true }) := by
  rw [ownRingStop, numArg_val r (by decide)]
  exact if_neg (by simp [hp, hs])

/-- An accepted RING_START: the ring starts at slot 0, CM is told and RT makes its wake requests, which leave ML alone (R47). -/
theorem exec_ringStart_accepted (ready : s.linkReady) (hp : s.part = .running) (hs : (s.ring r).state ≠ .running)
    (hc : (s.ring r).cfg ≠ RingConfig.unconfigured) (h1 : (s.ring r).producer = .free) (h2 : (s.ring r).consumer = .free)
    (hu : u =
      { s.quiet with
        rings := s.rings.put r { (s.ring r).zeroCursors.zeroCounters with state := .running },
        hand := { s.hand with cadStart := s.hand.cadStart.put r true } }) :
    exec (.ringStart (BitVec.ofNat 8 r.val)) s = .next { u.wakeRequests r with ml := s.linkAfter 0x08 .ok [] } := by
  have started : ownRingStart (BitVec.ofNat 8 r.val) s.framed = accept ((u.wakeRequests r).setMl s.framed.ml) := by
    rw [ownRingStart_accept (u := s.framed) hp hs hc h1 h2, ← State.wakeRequests_setMl, hu]
    rfl
  exact shortCommand_accepted (u := (u.wakeRequests r).setMl s.framed.ml) ready started rfl

/-! The entry into RUNNING and the drop of an ownership (R55, R96) -/

theorem State.runEntryRing_kept (h : (u.ring r).cfg.startAtRun = false) :
    u.runEntryRing r = if (u.ring r).state = .running then u else u.stopWatch r := by
  simp [State.runEntryRing, h]

theorem exec_dropOwnerships_left {m : MasterNo} {c : CellNo} (h : (m, c) ∈ s.hand.drops) (ho : (s.cell c).owner ≠ some m) :
    exec (.dropOwnerships m c) s = .next (s.begin.setHand { s.hand with drops := s.hand.drops.erase (m, c) }) := by
  have told : s.hand.drops.contains (m, c) = true := by simpa using h
  exact (if_pos told).trans (if_neg ho)

end RingCommands

end Sys2Proof.Machine

namespace Sys2Proof.Proofs

open Sys2Proof.Machine

/-- Settles O40: NW's evaluation under all its conditions, and a case of the evaluation excluded by each that fails. -/
theorem noticeIssuedUnderItsConditions : Obligations.NoticeIssuedUnderItsConditions := by
  intro r s
  refine ⟨fun rec rest w idle queue ring bound running on free room => ?_, fun fails => ?_, fun ring unbound => ?_,
    fun ring fails => ?_⟩
  · have may : s.mayWrite r = true := (s.mayWrite_iff r).2 ⟨running, on, free, room⟩
    simp only [State.nwEvaluate, idle, queue, ring, bound, may, if_true]
    rfl
  · rcases s.nwEvaluate_cases with same | ⟨rec, rest, q, v, idle, queue, ring, -, may, -⟩
    · exact same
    · obtain ⟨running, -⟩ := (s.mayWrite_iff q).1 may
      simp [idle, queue, ring, running] at fails
  · rcases s.nwEvaluate_cases with same | ⟨rec, rest, q, v, -, -, ring', bound, -⟩
    · exact same
    · obtain rfl : q = r := by simpa [ring] using ring'.symm
      simp [unbound] at bound
  · rcases s.nwEvaluate_cases with same | ⟨rec, rest, q, v, -, -, ring', -, may, -⟩
    · exact same
    · obtain rfl : q = r := by simpa [ring] using ring'.symm
      obtain ⟨-, on, free, room⟩ := (s.mayWrite_iff q).1 may
      simp [on, free] at fails
      exact absurd room (Nat.not_lt.2 fails)

/-- Settles O51: each hand-off as its block takes it. -/
theorem blocksTakeStopAndEntry : Obligations.BlocksTakeStopAndEntry := by
  intro s
  refine ⟨fun told => ⟨_, if_pos told, rfl, fun r => ⟨?_, ?_⟩⟩, fun told => if_pos told,
    fun u r => ⟨fun start => ?_, fun keep => ⟨fun off => ?_, fun on => ?_⟩⟩, fun told => if_pos told,
    fun told => ⟨_, if_pos told, rfl, fun m => ?_⟩, fun m c told left => ?_⟩
  · simp [State.ring, Ring.detachLanes]
  · simp [State.departures, beq_eq_decide]
  · exact if_pos start
  · rw [State.runEntryRing_kept keep, if_neg off]
    rfl
  · rw [State.runEntryRing_kept keep, if_pos on]
  · exact State.copyHeader_master _ m
  · exact exec_dropOwnerships_left told left

/-- Settles O59: the owners' checks in order, carried through the link. -/
theorem ringStartAndStop : Obligations.RingStartAndStop := by
  intro s ready
  refine ⟨fun b big => ⟨?_, ?_⟩, fun r => ⟨fun bad => ?_, fun running off configured => ⟨fun busy => ?_,
    fun producer consumer => ⟨_, rfl, ?_⟩⟩, fun bad => ?_, fun running on => ?_⟩⟩
  · exact shortCommand_refused ready (ownRingStart_badArg big)
  · exact shortCommand_refused ready (ownRingStop_badArg big)
  · exact shortCommand_refused ready (ownRingStart_badState bad)
  · exact shortCommand_refused ready (ownRingStart_busy running off configured busy)
  · exact exec_ringStart_accepted ready running off configured producer consumer rfl
  · exact shortCommand_refused ready (ownRingStop_badState bad)
  · exact shortCommand_accepted ready (ownRingStop_accept running on) rfl

end Sys2Proof.Proofs

namespace Sys2Proof.Machine

/-! ### The views of the reading commands (R196 to R200, R208) -/

section Views

variable {s : State} {code : Byte} {owner : State → Reply} {ws : List Word}

theorem shortCommand_view (h : s.linkReady) (ho : owner s.framed = acceptView s.framed ws) :
    shortCommand code owner s = .next { s.responded code .ok (bytesOf ws) with free := s.free + 1 } :=
  congrArg _ (State.takeCommand_state h code owner .ok (bytesOf ws) s.framed.countHole ho rfl)

theorem shortCommand_words (h : s.linkReady) (ho : owner s.framed = acceptWords s.framed ws) :
    shortCommand code owner s = .next (s.responded code .ok (bytesOf ws)) :=
  congrArg _ (State.takeCommand_state h code owner .ok (bytesOf ws) s.framed ho rfl)

/-! What stands in a word -/

theorem timerShown_timerWord {n : Nat} (hole : Word) (t : Option (BitVec n)) : timerShown t (timerWord hole t) := by
  cases t with
  | none => exact ⟨hole.extractLsb' 0 17, rfl⟩
  | some x => rfl

theorem laneWord_eq_laneShown (l : Lane) : laneWord l = laneShown l := by cases l <;> rfl

theorem flagByte_cases (b : Bool) : flagByte b = 0 ∨ flagByte b = 1 := by cases b <;> decide

theorem flagByte_eq_one {b : Bool} : flagByte b = 1 ↔ b = true := by cases b <;> decide

theorem dirCode_cases (d : Dir) : dirCode d = 0 ∨ dirCode d = 1 := by cases d <;> decide

theorem dirCode_eq_one {d : Dir} : dirCode d = 1 ↔ d = .write := by cases d <;> decide

theorem sideCode_cases (x : Side) : sideCode x = 0 ∨ sideCode x = 1 := by cases x <;> decide

theorem sideCode_eq_one {x : Side} : sideCode x = 1 ↔ x = .consumer := by cases x <;> decide

theorem window_toList (w : WindowWords) : w.toList = [w.nth 0, w.nth 1, w.nth 2, w.nth 3] := by
  obtain ⟨⟨l⟩, h⟩ := w
  match l, h with
  | [_, _, _, _], _ => rfl

theorem bytesOf_window (w : WindowWords) :
    bytesOf w.toList = wordBytes (w.nth 0) ++ wordBytes (w.nth 1) ++ wordBytes (w.nth 2) ++ wordBytes (w.nth 3) := by
  simp [window_toList]

/-- The byte of a window number or of a load status's index that may be none (R205). -/
theorem numByte_window (o : Option (Fin 32)) :
    numByte o = (match o with | none => 255 | some i => BitVec.ofNat 8 i.val) := by cases o <;> rfl

/-- The byte of a ring number that may be none (R205). -/
theorem numByte_ring (o : Option RingNo) :
    numByte o = (match o with | none => 255 | some r => BitVec.ofNat 8 r.val) := by cases o <;> rfl

/-! STATUS (R197) -/

/-- The byte of the alert causes and the line (R197, log 19). -/
def alertByte (notices stall lost fail line : Bool) : Byte :=
  byteOf ((if notices then 1 else 0) + (if stall then 2 else 0) + (if lost then 4 else 0) + (if fail then 8 else 0) +
    (if line then 16 else 0))

theorem alertByte_bits : ∀ notices stall lost fail line : Bool,
    (alertByte notices stall lost fail line).getLsbD 0 = notices ∧
    (alertByte notices stall lost fail line).getLsbD 1 = stall ∧
    (alertByte notices stall lost fail line).getLsbD 2 = lost ∧
    (alertByte notices stall lost fail line).getLsbD 3 = fail ∧
    (alertByte notices stall lost fail line).getLsbD 4 = line ∧
    (alertByte notices stall lost fail line).extractLsb' 5 3 = 0 := by decide

theorem alertNotices_iff :
    alertNotices s = true ↔
      (∃ r, s.header.noticeRing = some r ∧ s.header.alertLevel.toNat ≤ (s.ring r).fill) ∨
        (s.header.noticeRing = none ∧ s.nw.queue ≠ []) := by
  unfold alertNotices
  cases s.header.noticeRing with
  | none => simp
  | some r => simp

theorem alertLoadFail_iff : alertLoadFail s = true ↔ s.tl.code ≠ .none ∧ s.tl.code ≠ .ok := by
  unfold alertLoadFail
  cases s.tl.code <;> simp [LoadCode.isFailure]

/-! READ_POOL (R78) -/

/-- The flags of a pool entry: `low` in bits 1:0, the cause in bits 3:2, the direction in bit 4 (R208, log 19). -/
def entryFlags (low : Nat) (c : Cause) (d : Dir) : Byte := byteOf (low + 4 * causeCode c + 16 * (dirCode d).toNat)

theorem entryFlags_bits {low : Nat} (h : low < 4) (c : Cause) (d : Dir) :
    (entryFlags low c d).getLsbD 0 = decide (low % 2 = 1) ∧ (entryFlags low c d).getLsbD 1 = decide (2 ≤ low) ∧
    (entryFlags low c d).extractLsb' 2 2 = (match c with | .full => 0 | .empty => 1 | .lane => 2 | .claim => 3) ∧
    ((entryFlags low c d).getLsbD 4 = true ↔ d = .write) ∧ (entryFlags low c d).extractLsb' 5 3 = 0 := by
  interval_cases low <;> cases c <;> cases d <;> decide

/-- Bits 1:0 of a pool entry's flags: cell in bit 0, consumer in bit 1, which is free for a cell (R208, log 18). -/
def State.entryTargetBits (s : State) (e : ParkEntry) : Nat :=
  match e.target with
  | .ring _ side => 2 * (sideCode side).toNat
  | .cell _ => 1 + 2 * (s.holeCode (8 + e.slot.val)).toNat

theorem State.entryTargetBits_ring {e : ParkEntry} {r : RingNo} {side : Side} (h : e.target = .ring r side) :
    s.entryTargetBits e = 2 * (sideCode side).toNat := by
  simp only [State.entryTargetBits, h]

theorem State.entryTargetBits_cell {e : ParkEntry} {c : CellNo} (h : e.target = .cell c) :
    s.entryTargetBits e = 1 ∨ s.entryTargetBits e = 3 := by
  simp only [State.entryTargetBits, h, State.holeCode]
  cases (s.hole (8 + e.slot.val)).getLsbD 0 <;> decide

theorem State.entryTargetBits_lt (e : ParkEntry) : s.entryTargetBits e < 4 := by
  cases h : e.target with
  | ring r side =>
    rw [State.entryTargetBits_ring h]
    cases side <;> decide
  | cell c => rcases State.entryTargetBits_cell (s := s) h with bits | bits <;> omega

theorem entryShown_entryWords (s : State) (e : ParkEntry) : s.entryShown e (entryWords s e) := by
  have classMarks : byteOf ((if e.rq.priv then 1 else 0) + if e.rq.fetch then 2 else 0) =
      ((if e.rq.priv then 1 else 0) + if e.rq.fetch then 2 else 0 : Byte) := by
    cases e.rq.priv <;> cases e.rq.fetch <;> rfl
  obtain ⟨bit0, bit1, cause, dir, rest⟩ := entryFlags_bits (s.entryTargetBits_lt e) e.cause e.rq.dir
  refine ⟨entryFlags (s.entryTargetBits e) e.cause e.rq.dir, timerWord (s.hole e.slot.val) (e.remaining.map held), ?_,
    timerShown_timerWord _ _, ?_, cause, dir, rest⟩
  · rw [← classMarks]
    rfl
  · cases h : e.target with
    | ring r side =>
      rw [bit0, bit1, State.entryTargetBits_ring h]
      dsimp only
      cases side <;> decide
    | cell c =>
      rw [bit0]
      rcases State.entryTargetBits_cell (s := s) h with bits | bits <;> simp [bits]

end Views

end Sys2Proof.Machine

namespace Sys2Proof.Machine

/-! ### The reading commands, one by one -/

section Reading

variable {s : State}

theorem statusWords_eq (s : State) : ∃ (alerts reads : Byte) (image : Word),
    statusWords s =
      [wordOf (partCode s.part) (resetCauseCode s.cause) s.straps.tablePage (if s.straps.loadOnReset then 1 else 0),
        wordOf (if s.tl.valid then 1 else 0) (loadCodeByte s.tl.code)
          (match s.tl.index with | none => 255 | some i => BitVec.ofNat 8 i.val)
          (match s.nw.writer with | .idle => 0 | .writing _ => 1 | .stalled => 2),
        wordOf alerts (BitVec.ofNat 8 s.nw.queue.length) (s.nw.mask.zeroExtend 8) 0,
        s.nw.lost.zeroExtend 32,
        wordOf (match s.tl.load with | none => 0 | some l => originCode l.origin) reads 0 0,
        image, s.timestamp] ∧
    alerts = alertByte (alertNotices s) (alertStall s) (alertLost s) (alertLoadFail s) (alert s) ∧
    ∀ l, s.tl.load = some l → reads = BitVec.ofNat 8 l.reads ∧ image = l.addr := by
  cases load : s.tl.load with
  | none =>
    refine ⟨_, s.holeByte 4, s.hole 5, ?_, rfl, fun l some => by cases some⟩
    simp only [statusWords, load, numByte_window]
    rfl
  | some l =>
    refine ⟨_, BitVec.ofNat 8 l.reads, l.addr, ?_, rfl, fun l' some => by cases some; exact ⟨rfl, rfl⟩⟩
    simp only [statusWords, load, numByte_window]
    rfl

theorem ringWords_eq (s : State) (r : RingNo) : ∃ elapsed last watch : Word,
    ringWords s r =
      encodeRing (s.ring r).cfg ++
        [wordOf (ringStateCode (s.ring r).state)
            (match s.boundWindow r with | none => 255 | some w => BitVec.ofNat 8 w.val) 0 0,
          BitVec.ofNat 16 (s.ring r).ri ++ BitVec.ofNat 16 (s.ring r).wi,
          BitVec.ofNat 16 (s.ring r).ro ++ BitVec.ofNat 16 (s.ring r).wo,
          BitVec.ofNat 32 (s.ring r).fill, laneShown (s.ring r).producer, laneShown (s.ring r).consumer,
          (match s.boundWindow r with
            | none => 0
            | some w => winBase (s.window w) +
                BitVec.ofNat 32 ((s.ring r).wi * (s.ring r).cfg.slotSize) + BitVec.ofNat 32 (s.ring r).wo),
          (match s.boundWindow r with
            | none => 0
            | some w => winBase (s.window w) +
                BitVec.ofNat 32 ((s.ring r).ri * (s.ring r).cfg.slotSize) + BitVec.ofNat 32 (s.ring r).ro),
          (s.ring r).commits, (s.ring r).releases, (s.ring r).drops, (s.ring r).fills, (s.ring r).strays,
          wordOf (classCode (s.cad r).cls)
            (match (s.cad r).candidate with | none => 255 | some x => classCode x)
            (BitVec.ofNat 8 (s.cad r).run) 0,
          elapsed, last, watch] ∧
    timerShown (s.cad r).elapsed elapsed ∧ timerShown (s.cad r).last last ∧
    timerShown ((s.cad r).watch.map held) watch := by
  refine ⟨_, _, _, ?_, timerShown_timerWord (s.hole 22) _, timerShown_timerWord (s.hole 23) _,
    timerShown_timerWord (s.hole 24) _⟩
  rw [ringWords, numByte_window, laneWord_eq_laneShown, laneWord_eq_laneShown]
  rfl

theorem headerWords_eq (h : Header) :
    encodeHeader h =
      [h.format, h.balance,
        wordOf (match h.policy with | .closed => 0 | .open => 1)
          (match h.noticeRing with | none => 255 | some r => BitVec.ofNat 8 r.val)
          (h.alertLevel.extractLsb' 0 8) (h.alertLevel.extractLsb' 8 8),
        wordOf (h.mask.zeroExtend 8) (h.internalPrio.zeroExtend 8) (h.retryBudget.zeroExtend 8) 0,
        h.respLimit.zeroExtend 32, priosWord h.prios, 0, 0, 0, 0, 0, 0, 0, 0, 0, 0] := by
  rw [encodeHeader, numByte_ring]
  rfl

theorem cellWords_eq (s : State) (c : CellNo) : ∃ (lease : Word) (mode : Byte),
    cellWords s c =
      [wordOf (BitVec.ofNat 8 c.val) (match (s.cell c).owner with | none => 0 | some m => BitVec.ofNat 8 m.val)
          (s.cell c).gen (match (s.cell c).lapsed with | none => 0 | some m => BitVec.ofNat 8 m.val),
        lease,
        wordOf (match s.coveringWindow c with | none => 255 | some w => BitVec.ofNat 8 w.val) mode
          (BitVec.ofNat 8 (s.hp.list.countP fun e => e.target == .cell c)) 0,
        (match s.coveringWindow c with
          | none => 0
          | some w => winBase (s.window w) + BitVec.ofNat 32 (4 * (c.val - winLow (s.window w))))] ∧
    timerShown ((s.cell c).lease.map held) lease ∧ (mode = 0 ∨ mode = 1) ∧
    ∀ w, s.coveringWindow c = some w → (mode = 1 ↔ winWait (s.window w) = true) := by
  refine ⟨_, match s.coveringWindow c with | none => s.holeCode 2 | some i => flagByte (winWait (s.window i)), ?_,
    timerShown_timerWord (s.hole 1) _, ?_, fun w covered => ?_⟩
  · rw [cellWords, numByte_window]
    rfl
  · cases s.coveringWindow c <;> exact flagByte_cases _
  · rw [covered]
    exact flagByte_eq_one

theorem masterWords_eq (s : State) (m : MasterNo) : ∃ (dir len park side : Byte) (addr : Word),
    masterWords s m =
      [wordOf (BitVec.ofNat 8 m.val) ((s.master m).prio.zeroExtend 8) (masterStateCode (s.master m).state)
          (phaseCode (s.master m).outst.phase),
        wordOf dir len park
          (match (s.master m).outst with | .laneHeld _ k => BitVec.ofNat 8 k.ring.val | _ => 255),
        addr,
        wordOf side (BitVec.ofNat 8 ((List.finRange 64).countP fun c => (s.cell c).owner == some m))
          (BitVec.ofNat 8 ((List.finRange 64).countP fun c => (s.cell c).lapsed == some m)) 0] ∧
    (dir = 0 ∨ dir = 1) ∧ (side = 0 ∨ side = 1) ∧
    (∀ rq, (s.master m).outst.request? = some rq →
      (dir = 1 ↔ rq.dir = .write) ∧ len = BitVec.ofNat 8 rq.len ∧ addr = rq.addr) ∧
    (∀ rq k, (s.master m).outst = .laneHeld rq k → (side = 1 ↔ k.side = .consumer)) ∧
    (∀ rq e, (s.master m).outst = .parked rq → s.hp.list.find? (fun x => x.master == m) = some e →
      park = BitVec.ofNat 8 e.slot.val) ∧
    ((∀ rq, (s.master m).outst ≠ .parked rq) → park = 255) := by
  refine ⟨match (s.master m).outst.request? with | none => s.holeCode 1 | some q => dirCode q.dir,
    match (s.master m).outst.request? with | none => s.holeByte 4 | some q => byteOf q.len,
    numByte (match (s.master m).outst with
      | .parked _ => (s.hp.list.find? fun e => e.master == m).map (·.slot)
      | _ => none),
    match (s.master m).outst with | .laneHeld _ k => sideCode k.side | _ => s.holeCode 3,
    match (s.master m).outst.request? with | none => s.hole 2 | some q => q.addr,
    ?_, ?_, ?_, fun rq some => ?_, fun rq k held => ?_, fun rq e parked found => ?_, fun unparked => ?_⟩
  · simp only [masterWords, State.ownedCells, State.lapsedCells, List.countP_eq_length_filter]
    cases (s.master m).outst <;> rfl
  · cases (s.master m).outst.request? with
    | none => exact flagByte_cases _
    | some q => exact dirCode_cases q.dir
  · cases (s.master m).outst with
    | laneHeld rq k => exact sideCode_cases k.side
    | _ => exact flagByte_cases _
  · rw [some]
    exact ⟨dirCode_eq_one, rfl, rfl⟩
  · rw [held]
    exact sideCode_eq_one
  · simp only [parked, found]
    rfl
  · cases h : (s.master m).outst with
    | parked rq => exact absurd h (unparked rq)
    | _ => rfl

theorem poolWords_eq (s : State) :
    poolWords s = BitVec.ofNat 32 s.hp.list.length :: s.hp.arrival :: (s.hp.list.map (entryWords s)).flatten := by
  rw [poolWords, List.flatMap_def]
  rfl

theorem poolWords_length (s : State) : (poolWords s).length = 2 + 5 * s.hp.list.length := by
  have five : (fun e => (entryWords s e).length) = fun _ => 5 := rfl
  rw [poolWords, List.length_append, List.length_flatMap, five]
  simp [Nat.mul_comm]

theorem entries_shown (s : State) : List.Forall₂ s.entryShown s.hp.list (s.hp.list.map (entryWords s)) := by
  rw [List.forall₂_map_right_iff, List.forall₂_same]
  exact fun e _ => entryShown_entryWords s e

end Reading

end Sys2Proof.Machine

namespace Sys2Proof.Proofs

open Sys2Proof.Machine

/-- Settles O57: each view as its layout gives it, carried through the link. -/
theorem readingCommandsReturnViews : Obligations.ReadingCommandsReturnViews := by
  intro s
  refine ⟨alertNotices_iff, by simp [alertStall], by simp [alertLost], alertLoadFail_iff, by simp [alert, or_assoc],
    fun ready => ⟨?_, ⟨priosWord s.header.prios, ?_, headerWords_eq s.header, fun m hm => ?_⟩, fun w => ?_, fun r => ?_,
      fun c => ?_, fun m hm => ?_, ?_, fun b => ⟨fun big => ?_, fun big => ?_, fun big => ?_, fun bad => ?_⟩⟩⟩
  · obtain ⟨alerts, reads, image, words, rfl, load⟩ := statusWords_eq s
    obtain ⟨bit0, bit1, bit2, bit3, bit4, rest⟩ := alertByte_bits (alertNotices s) (alertStall s) (alertLost s)
      (alertLoadFail s) (alert s)
    exact ⟨_, _, reads, image, shortCommand_view ready rfl, congrArg bytesOf words, bit0, bit1, bit2, bit3, bit4, rest, load⟩
  · exact shortCommand_words ready rfl
  · exact extract_priosWord s.header.prios m fun zero => hm (Fin.ext zero)
  · have words : ownReadWindow (BitVec.ofNat 8 w.val) s.framed = acceptWords s.framed (s.window w).toList := by
      rw [ownReadWindow, numArg_val w (by decide)]
      rfl
    rw [← bytesOf_window]
    exact shortCommand_words ready words
  · obtain ⟨elapsed, last, watch, words, shown⟩ := ringWords_eq s r
    have view : ownReadRing (BitVec.ofNat 8 r.val) s.framed = acceptView s.framed (ringWords s r) := by
      rw [ownReadRing, numArg_val r (by decide)]
      rfl
    exact ⟨bytesOf (ringWords s r), elapsed, last, watch, shortCommand_view ready view, by simp [words],
      congrArg bytesOf words, shown⟩
  · obtain ⟨lease, mode, words, shown⟩ := cellWords_eq s c
    have view : ownReadCell (BitVec.ofNat 8 c.val) s.framed = acceptView s.framed (cellWords s c) := by
      rw [ownReadCell, numArg_val c (by decide)]
      rfl
    exact ⟨_, lease, mode, shortCommand_view ready view, congrArg bytesOf words, shown⟩
  · obtain ⟨dir, len, park, side, addr, words, shown⟩ := masterWords_eq s m
    have view : ownReadMaster (BitVec.ofNat 8 m.val) s.framed = acceptView s.framed (masterWords s m) := by
      rw [ownReadMaster, masterArg_val m hm]
      rfl
    exact ⟨_, dir, len, park, side, addr, shortCommand_view ready view, congrArg bytesOf words, shown⟩
  · have view : ownReadPool s.framed = acceptView s.framed (poolWords s) := rfl
    exact ⟨bytesOf (poolWords s), s.hp.list.map (entryWords s), shortCommand_view ready view,
      congrArg bytesOf (poolWords_eq s), by rw [bytesOf_length, poolWords_length]; omega, entries_shown s⟩
  · exact shortCommand_refused ready (by rw [ownReadWindow, numArg_big big])
  · exact shortCommand_refused ready (by rw [ownReadRing, numArg_big big])
  · exact shortCommand_refused ready (by rw [ownReadCell, numArg_big big])
  · exact shortCommand_refused ready (by rw [ownReadMaster, masterArg_bad bad])

end Sys2Proof.Proofs

namespace Sys2Proof.Machine

/-! ### Ticks, and the expiry and cancellation of parked requests -/

section PoolEvents

variable {s : State} {e : ParkEntry} {pre post : List ParkEntry} {i : EntryNo}

theorem countDown_eq_tickedDown {n : Nat} (t : Option (BitVec n)) : countDown t = tickedDown t := by cases t <;> rfl

theorem ParkEntry.tick_eq (e : ParkEntry) : e.tick = { e with remaining := tickedDown e.remaining } := by
  rw [ParkEntry.tick, countDown_eq_tickedDown]

theorem Cadence.tick_eq (k : Cadence) :
    k.tick =
      { k with
        elapsed := k.elapsed.map fun x => if x = 65535 then 65535 else x + 1, watch := tickedDown k.watch } := by
  rw [Cadence.tick, countDown_eq_tickedDown]

theorem LeaseClock.tick_of_lt {k : LeaseClock} (h : k.divider < 999) : k.tick = { k with divider := k.divider + 1 } :=
  if_pos (Nat.succ_lt_succ h)

theorem LeaseClock.tick_of_full {k : LeaseClock} (h : k.divider = 999) :
    k.tick = { divider := 0, msDue := k.msDue + 1 } :=
  if_neg (by simp [h])

theorem Ring.monitored_iff (k : Ring) : k.monitored = true ↔ k.state = .running ∧ k.cfg.target ≠ 0 := by
  simp [Ring.monitored]

/-! The entry that an expiry names is the first of its number. -/

theorem State.entry_of_split (hl : s.hp.list = pre ++ e :: post) (hi : e.slot = i) (hpre : ∀ x ∈ pre, x.slot ≠ i) :
    s.entry i = some e :=
  find?_of_split hl (by simp [hi]) (by simpa using hpre)

theorem State.removeEntry_of_split (hl : s.hp.list = pre ++ e :: post) (hi : e.slot = i) (hpre : ∀ x ∈ pre, x.slot ≠ i) :
    s.begin.removeEntry i = (s.setHp { s.hp with list := pre ++ post }).begin := by
  have rest : s.hp.list.eraseP (fun x => x.slot == i) = pre ++ post :=
    eraseP_of_split hl (by simp [hi]) (by simpa using hpre)
  rw [← rest]
  rfl

/-- A ring's cancellation, when the entries meet their law: each waiter answered once, with its notice (R72, R73, R77). -/
theorem State.cancelRing_eq (h : s.waiterLaw) (reason : Reason) (r : RingNo) :
    s.begin.cancelRing reason r =
      { s.cancelled reason (ParkEntry.onRing r) with
        hand :=
          { s.hand with
            notices := s.hand.notices ++ (s.hp.list.filter (ParkEntry.onRing r)).map fun e =>
              faultNotice reason e.master e.rq.addr (some e.window) (.ring r) } } := by
  rw [State.cancelRing, State.cancelEntries_eq s h, State.noticeEntries_eq]
  rfl

end PoolEvents

end Sys2Proof.Machine

namespace Sys2Proof.Proofs

open Sys2Proof.Machine

/-- Settles O29: the winner is the first entry that has the highest priority among those that wait for the target. -/
theorem poolWinnerIsHighestThenEarliest : Obligations.PoolWinnerIsHighestThenEarliest := by
  intro t s
  refine ⟨s.winner_eq_none t, fun e won => ?_⟩
  obtain ⟨pre, post, list, target, highest, earliest, -⟩ := s.winner_eq_some won
  exact ⟨pre, post, list, target, highest, earliest⟩

/-- Settles O46: the timers of one block after the other. -/
theorem ticksAndMillisecondStepsAdvanceTheTimers : Obligations.TicksAndMillisecondStepsAdvanceTheTimers := by
  intro s
  refine ⟨fun asserted => if_pos asserted,
    fun released => ⟨_, if_neg (by simp [released]), rfl, ?_, LeaseClock.tick_of_lt, LeaseClock.tick_of_full,
      fun idle => ?_, fun f issued => ?_, fun tag left settling => ?_, fun r => ?_⟩,
    fun none => if_pos none, fun due => ⟨_, if_neg due, rfl, fun c => ?_⟩⟩
  · rw [← List.map_congr_left fun e _ => ParkEntry.tick_eq e]
  · simp only [idle, Link.tick]
  · simp only [issued, Link.tick]
  · simp only [settling, Link.tick]
  · simp only [State.cad, Tbl.nth_tabulate, Ring.monitored_iff]
    refine ⟨fun monitored => (if_pos monitored).trans (Cadence.tick_eq _), fun idle => if_neg ?_⟩
    rintro ⟨running, target⟩
    exact idle.elim (absurd running) target
  · simp only [State.cell, Tbl.nth_mapAll, countDown_eq_tickedDown]

/-- Settles O47: the entry leaves the pool, and its master is answered with the notice. -/
theorem ringEntryExpires : Obligations.RingEntryExpires := by
  intro i e pre post r side s list slot first target due parked
  simp only [exec, execRingParkExpiry, State.entry_of_split list slot first, target, if_pos due]
  rw [State.removeEntry_of_split list slot first, State.begin_faultWithNotice]
  · rfl
  · simp [parked]

/-- Settles O48: the entry leaves the pool, and its master is answered the reply word of the held cell. -/
theorem claimEntryExpires : Obligations.ClaimEntryExpires := by
  intro i e pre post c o s list slot first target due parked owner
  have word : wordBytes (replyWord (s.cell c).owner (s.cell c).gen true) = [BitVec.ofNat 8 o.val, (s.cell c).gen, 0, 128] := by
    rw [owner, wordBytes_replyWord, if_pos rfl]
  simp only [exec, execClaimParkExpiry, State.entry_of_split list slot first, target, if_pos due]
  rw [State.removeEntry_of_split list slot first, State.claimReply, State.begin_answer, ← word]
  · rfl
  · simp [parked]

/-- Settles O50: each cancellation is `State.cancelled` for the entries it names, beside the flag that is taken. -/
theorem cancellationsAnswerTheirEntries : Obligations.CancellationsAnswerTheirEntries := by
  intro s law
  refine ⟨fun told => ?_, fun told => ?_, fun r p onRing => ?_⟩
  · have taken : { s with hand := { s.hand with stopPool := false } }.waiterLaw := law
    simp only [exec, execStopPool, if_pos told]
    exact congrArg _ (State.cancelEntries_eq _ taken .stopped _)
  · have taken : { s with hand := { s.hand with stopCells := false }, cells := Tbl.all 64 Cell.reset }.waiterLaw := law
    simp only [exec, execStopCells, if_pos told]
    exact congrArg _ (State.cancelEntries_eq _ taken .stopped ParkEntry.onCell)
  · rw [ParkEntry.onRing_eq onRing]
    refine ⟨fun told => ?_, fun told => ?_⟩
    · have taken : { s with hand := { s.hand with cancelStop := s.hand.cancelStop.put r false } }.waiterLaw := law
      simp only [exec, execPoolCancelRingStop, if_pos told]
      exact congrArg _ (State.cancelRing_eq taken .ringOff r)
    · have taken : { s with hand := { s.hand with cancelFreeze := s.hand.cancelFreeze.put r false } }.waiterLaw := law
      simp only [exec, execPoolCancelFreeze, if_pos told]
      exact congrArg _ (State.cancelRing_eq taken .ringFrozen r)

end Sys2Proof.Proofs

namespace Sys2Proof.Machine

/-! ### What the laws of the hold pool and of the claim cells speak of

`State.holding` keeps of a state the pool list, the count of first parkings, the claim cells, and of each master's request whether it is
parked or out of the pool for a replay. Most operations leave it as it is; the others are the few changes defined here. -/

/-- What a master's request is to the hold pool: parked, out of the pool for a replay with what it carries, or neither (R62, R66, R121). -/
inductive Hold where
  | none
  | parked (rq : Request)
  | woken (k : Woken)

/-- What an outstanding request is to the hold pool. -/
def Outstanding.hold : Outstanding → Hold
  | .none => .none
  | .admitting _ => .none
  | .queued _ => .none
  | .inFlight _ => .none
  | .parked rq => .parked rq
  | .laneHeld _ k => .woken k

theorem Outstanding.hold_eq_parked {o : Outstanding} {rq : Request} : o.hold = .parked rq ↔ o = .parked rq := by
  cases o <;> simp [Outstanding.hold]

theorem Outstanding.hold_eq_woken {o : Outstanding} {k : Woken} : o.hold = .woken k ↔ ∃ rq, o = .laneHeld rq k := by
  cases o <;> simp [Outstanding.hold]

/-- An issue is nothing to the hold pool. -/
@[simp] theorem Outstanding.issued_hold (o : Outstanding) : o.issued.hold = o.hold := by cases o <;> rfl

/-- The waiters, the count of first parkings, the masters' holds and the cells. -/
structure Holding where
  list : List ParkEntry
  order : Nat
  hold : MasterNo → Hold
  cell : CellNo → Cell

def State.holding (s : State) : Holding :=
  { list := s.hp.list, order := s.hp.order, hold := fun m => (s.master m).outst.hold, cell := s.cell }

/-- The law of the hold pool and the law of the claim cells, condition by condition (R57, R58, R62, R80, R93). -/
structure Holding.Lawful (x : Holding) : Prop where
  slots : (x.list.map (·.slot)).Nodup
  masters : (x.list.map (·.master)).Nodup
  parked : ∀ e ∈ x.list, e.master ≠ 0 ∧ x.hold e.master = .parked e.rq
  sorted : x.list.Pairwise fun a b => a.order < b.order
  before : ∀ e ∈ x.list, e.order < x.order
  woken : ∀ m k, x.hold m = .woken k → k.order < x.order ∧ ∀ e ∈ x.list, e.order ≠ k.order
  apart : ∀ m q k j, m ≠ q → x.hold m = .woken k → x.hold q = .woken j → k.order ≠ j.order
  unleased : ∀ c, (x.cell c).owner = none → (x.cell c).lease = none
  owned : ∀ e ∈ x.list, ∀ c, e.target = .cell c → ∃ o, (x.cell c).owner = some o ∧ o ≠ e.master
  notLapsed : ∀ c m, (x.cell c).owner = some m → (x.cell c).lapsed ≠ some m

/-- The holding is lawful exactly when the state meets both laws; that at most 8 entries wait follows from their places. -/
theorem State.holding_lawful_iff (s : State) : s.holding.Lawful ↔ s.poolLaw ∧ s.cellLaw := by
  have woken : ∀ m k, s.holding.hold m = .woken k ↔ s.wokenWith m k := fun m k => Outstanding.hold_eq_woken
  have parked : ∀ m rq, s.holding.hold m = .parked rq ↔ (s.master m).outst = .parked rq := fun m rq =>
    Outstanding.hold_eq_parked
  constructor
  · intro h
    refine ⟨⟨⟨length_le_of_slots h.slots, h.slots, h.masters, fun e he => ?_⟩, h.sorted, h.before, ?_, ?_⟩,
      h.unleased, h.owned, h.notLapsed⟩
    · exact (h.parked e he).imp_right (parked _ _).1
    · exact fun m k hw => h.woken m k ((woken m k).2 hw)
    · exact fun m q k j hne hm hq => h.apart m q k j hne ((woken m k).2 hm) ((woken q j).2 hq)
  · rintro ⟨⟨⟨-, slots, masters, waiting⟩, sorted, before, away, apart⟩, unleased, owned, notLapsed⟩
    refine ⟨slots, masters, fun e he => (waiting e he).imp_right (parked _ _).2, sorted, before, ?_, ?_, unleased, owned,
      notLapsed⟩
    · exact fun m k hw => away m k ((woken m k).1 hw)
    · exact fun m q k j hne hm hq => apart m q k j hne ((woken m k).1 hm) ((woken q j).1 hq)

/-! ### The changes of a holding -/

namespace Holding

/-- Master `m`'s request is nothing to the pool any more. -/
def release (x : Holding) (m : MasterNo) : Holding := { x with hold := Function.update x.hold m .none }

/-- The first entry that `p` names leaves the list. -/
def take (x : Holding) (p : ParkEntry → Bool) : Holding := { x with list := x.list.eraseP p }

/-- An entry goes to its place in the list, and its master's request is parked. -/
def park (x : Holding) (e : ParkEntry) : Holding :=
  { x with list := insertByOrder e x.list, hold := Function.update x.hold e.master (.parked e.rq) }

/-- Master `m`'s request is out of the pool for a replay. -/
def wake (x : Holding) (m : MasterNo) (k : Woken) : Holding := { x with hold := Function.update x.hold m (.woken k) }

/-- Cell `c` is replaced. -/
def putCell (x : Holding) (c : CellNo) (k : Cell) : Holding := { x with cell := Function.update x.cell c k }

variable {x y : Holding} {m : MasterNo}

@[simp] theorem release_hold_self : (x.release m).hold m = .none := Function.update_self _ _ _

theorem release_hold_ne {q : MasterNo} (h : q ≠ m) : (x.release m).hold q = x.hold q := Function.update_of_ne h _ _

theorem release_of_none (h : x.hold m = .none) : x.release m = x := by
  rw [release, ← h, Function.update_eq_self]

theorem release_park {e : ParkEntry} (h : e.master = m) : (x.release m).park e = x.park e := by
  simp only [park, release, h, Function.update_idem]

theorem release_wake (k : Woken) : (x.release m).wake m k = x.wake m k := by
  simp only [wake, release, Function.update_idem]

/-- A master whose request is not parked has no entry. -/
theorem Lawful.no_entry (h : x.Lawful) (hm : ∀ rq, x.hold m ≠ .parked rq) : ∀ e ∈ x.list, e.master ≠ m := by
  rintro e he rfl
  exact hm _ (h.parked e he).2

/-- Entries leave the pool and requests are no longer held, but for those of the entries that stay. -/
theorem Lawful.shrink (h : x.Lawful) (list : y.list.Sublist x.list) (order : y.order = x.order)
    (hold : ∀ m, y.hold m = x.hold m ∨ y.hold m = .none) (kept : ∀ e ∈ y.list, y.hold e.master = x.hold e.master)
    (cell : y.cell = x.cell) : y.Lawful where
  slots := h.slots.sublist (list.map _)
  masters := h.masters.sublist (list.map _)
  parked e he := by
    rw [kept e he]
    exact h.parked e (list.subset he)
  sorted := h.sorted.sublist list
  before e he := by
    rw [order]
    exact h.before e (list.subset he)
  woken m k hw := by
    have was : x.hold m = .woken k := (hold m).elim (fun e => e ▸ hw) fun e => by simp [e] at hw
    obtain ⟨before, fresh⟩ := h.woken m k was
    exact ⟨by rwa [order], fun e he => fresh e (list.subset he)⟩
  apart m q k j hne hm hq := by
    have wasM : x.hold m = .woken k := (hold m).elim (fun e => e ▸ hm) fun e => by simp [e] at hm
    have wasQ : x.hold q = .woken j := (hold q).elim (fun e => e ▸ hq) fun e => by simp [e] at hq
    exact h.apart m q k j hne wasM wasQ
  unleased := by
    rw [cell]
    exact h.unleased
  owned := by
    rw [cell]
    exact fun e he => h.owned e (list.subset he)
  notLapsed := by
    rw [cell]
    exact h.notLapsed

/-- A request that is not parked leaves the part or goes downstream. -/
theorem Lawful.release (h : x.Lawful) (hm : ∀ e ∈ x.list, e.master ≠ m) : (x.release m).Lawful := by
  refine h.shrink (.refl _) rfl (fun q => ?_) (fun e he => release_hold_ne (hm e he)) rfl
  by_cases hq : q = m
  · subst hq
    exact Or.inr release_hold_self
  · exact Or.inl (release_hold_ne hq)

/-- An entry leaves the pool with its master's request. -/
theorem Lawful.takeEntry (h : x.Lawful) {p : ParkEntry → Bool} {e : ParkEntry} (found : x.list.find? p = some e) :
    ((x.take p).release e.master).Lawful := by
  refine h.shrink List.eraseP_sublist rfl (fun q => ?_)
    (fun d hd => release_hold_ne (eraseP_other_masters found h.masters d hd)) rfl
  by_cases hq : q = e.master
  · subst hq
    exact Or.inr release_hold_self
  · exact Or.inl (release_hold_ne hq)

/-- A first parking is counted (R58). -/
theorem Lawful.count (h : x.Lawful) : { x with order := x.order + 1 }.Lawful :=
  { h with
    before := fun e he => (h.before e he).trans (Nat.lt_succ_self _)
    woken := fun m k hw => (h.woken m k hw).imp_left fun lt => lt.trans (Nat.lt_succ_self _) }

/-- What the pool asks of an entry that it is to take: a free place, a master other than 0 whose request it does not hold, a first parking of
its own, and for a claim entry a cell that another master owns. -/
structure Admits (x : Holding) (e : ParkEntry) : Prop where
  slot : ∀ d ∈ x.list, d.slot ≠ e.slot
  master : e.master ≠ 0
  idle : x.hold e.master = .none
  before : e.order < x.order
  fresh : ∀ d ∈ x.list, d.order ≠ e.order
  freshWoken : ∀ m k, x.hold m = .woken k → k.order ≠ e.order
  owned : ∀ c, e.target = .cell c → ∃ o, (x.cell c).owner = some o ∧ o ≠ e.master

/-- An admitted entry joins the pool at its place (R57, R58, R62). -/
theorem Lawful.park (h : x.Lawful) {e : ParkEntry} (new : x.Admits e) : (x.park e).Lawful := by
  have mem : ∀ d, d ∈ insertByOrder e x.list ↔ d = e ∨ d ∈ x.list := fun d =>
    (insertByOrder_perm e x.list).mem_iff.trans List.mem_cons
  have others : ∀ d ∈ x.list, d.master ≠ e.master := h.no_entry fun rq => by simp [new.idle]
  have holdNe : ∀ q, q ≠ e.master → (x.park e).hold q = x.hold q := fun q hq => Function.update_of_ne hq _ _
  have holdSelf : (x.park e).hold e.master = .parked e.rq := Function.update_self _ _ _
  have wokenWas : ∀ m k, (x.park e).hold m = .woken k → x.hold m = .woken k := by
    intro m k hw
    by_cases hm : m = e.master
    · subst hm
      simp [holdSelf] at hw
    · rwa [holdNe m hm] at hw
  refine ⟨?_, ?_, fun d hd => ?_, insertByOrder_sorted e h.sorted new.fresh, fun d hd => ?_, fun m k hw => ?_, ?_,
    h.unleased, fun d hd => ?_, h.notLapsed⟩
  · refine ((insertByOrder_perm e x.list).map (·.slot)).nodup_iff.2 (List.nodup_cons.2 ⟨?_, h.slots⟩)
    simpa using new.slot
  · refine ((insertByOrder_perm e x.list).map (·.master)).nodup_iff.2 (List.nodup_cons.2 ⟨?_, h.masters⟩)
    simpa using others
  · rcases (mem d).1 hd with rfl | hd
    · exact ⟨new.master, holdSelf⟩
    · rw [holdNe _ (others d hd)]
      exact h.parked d hd
  · rcases (mem d).1 hd with rfl | hd
    · exact new.before
    · exact h.before d hd
  · obtain ⟨before, fresh⟩ := h.woken m k (wokenWas m k hw)
    refine ⟨before, fun d hd => ?_⟩
    rcases (mem d).1 hd with rfl | hd
    · exact (new.freshWoken m k (wokenWas m k hw)).symm
    · exact fresh d hd
  · exact fun m q k j hne hm hq => h.apart m q k j hne (wokenWas m k hm) (wokenWas q j hq)
  · rcases (mem d).1 hd with rfl | hd
    · exact new.owned
    · exact h.owned d hd

/-- A request that is not held is out of the pool for a replay, with a first parking that no other request has. -/
theorem Lawful.wake (h : x.Lawful) {k : Woken} (idle : x.hold m = .none) (before : k.order < x.order)
    (fresh : ∀ e ∈ x.list, e.order ≠ k.order) (freshWoken : ∀ q j, x.hold q = .woken j → j.order ≠ k.order) :
    (x.wake m k).Lawful := by
  have others : ∀ e ∈ x.list, e.master ≠ m := h.no_entry fun rq => by simp [idle]
  have holdNe : ∀ q, q ≠ m → (x.wake m k).hold q = x.hold q := fun q hq => Function.update_of_ne hq _ _
  have holdSelf : (x.wake m k).hold m = .woken k := Function.update_self _ _ _
  refine { h with parked := fun e he => ?_, woken := fun q j hw => ?_, apart := fun q p j i hne hq hp => ?_ }
  · rw [holdNe _ (others e he)]
    exact h.parked e he
  · by_cases hqm : q = m
    · subst hqm
      rw [holdSelf, Hold.woken.injEq] at hw
      exact hw ▸ ⟨before, fresh⟩
    · rw [holdNe q hqm] at hw
      exact h.woken q j hw
  · by_cases hqm : q = m
    · subst hqm
      rw [holdSelf, Hold.woken.injEq] at hq
      rw [holdNe p hne.symm] at hp
      exact hq ▸ (freshWoken p i hp).symm
    · rw [holdNe q hqm] at hq
      by_cases hpm : p = m
      · subst hpm
        rw [holdSelf, Hold.woken.injEq] at hp
        exact hp ▸ freshWoken q j hq
      · rw [holdNe p hpm] at hp
        exact h.apart q p j i hne hq hp

/-- Cells that meet their law with the waiters as they are. -/
theorem Lawful.withCells (h : x.Lawful) (cell : CellNo → Cell)
    (unleased : ∀ c, (cell c).owner = none → (cell c).lease = none)
    (owned : ∀ e ∈ x.list, ∀ c, e.target = .cell c → ∃ o, (cell c).owner = some o ∧ o ≠ e.master)
    (notLapsed : ∀ c m, (cell c).owner = some m → (cell c).lapsed ≠ some m) : { x with cell := cell }.Lawful :=
  { h with unleased, owned, notLapsed }

theorem Lawful.putCell (h : x.Lawful) {c : CellNo} {k : Cell} (unleased : k.owner = none → k.lease = none)
    (owned : ∀ e ∈ x.list, e.target = .cell c → ∃ o, k.owner = some o ∧ o ≠ e.master)
    (notLapsed : ∀ m, k.owner = some m → k.lapsed ≠ some m) : (x.putCell c k).Lawful := by
  have at_each : ∀ {p : CellNo → Cell → Prop}, p c k → (∀ d, p d (x.cell d)) → ∀ d, p d (Function.update x.cell c k d) :=
    fun hk hx => (Function.forall_update_iff _ _).2 ⟨hk, fun d _ => hx d⟩
  exact h.withCells _ (at_each (p := fun _ k => k.owner = none → k.lease = none) unleased h.unleased)
    (fun e he => at_each (p := fun d k => e.target = .cell d → ∃ o, k.owner = some o ∧ o ≠ e.master) (owned e he)
      (h.owned e he))
    (at_each (p := fun _ k => ∀ m, k.owner = some m → k.lapsed ≠ some m) notLapsed h.notLapsed)

end Holding

end Sys2Proof.Machine

namespace Sys2Proof.Machine

/-! ### What each shared operation does to the holding -/

section HoldingOps

variable (s : State)

@[simp] theorem State.setRing_holding (r : RingNo) (k : Ring) : (s.setRing r k).holding = s.holding := rfl

@[simp] theorem State.setLane_holding (r : RingNo) (side : Side) (l : Lane) : (s.setLane r side l).holding = s.holding := rfl

@[simp] theorem State.setCad_holding (r : RingNo) (k : Cadence) : (s.setCad r k).holding = s.holding := rfl

@[simp] theorem State.setDn_holding (d : Downstream) : (s.setDn d).holding = s.holding := rfl

@[simp] theorem State.setHand_holding (h : HandOffs) : (s.setHand h).holding = s.holding := rfl

@[simp] theorem State.emit_holding (o : Output) : (s.emit o).holding = s.holding := rfl

@[simp] theorem State.begin_holding : s.begin.holding = s.holding := rfl

@[simp] theorem State.giveNotice_holding (n : Notice) : (s.giveNotice n).holding = s.holding := rfl

@[simp] theorem State.handJoin_holding (e : QueueEntry) : (s.handJoin e).holding = s.holding := rfl

@[simp] theorem State.takeResult_holding (p : DownResult → Bool) : (s.takeResult p).holding = s.holding := rfl

/-! The pool list and the cells -/

@[simp] theorem State.setHp_holding (x : HoldPool) :
    (s.setHp x).holding = { s.holding with list := x.list, order := x.order } := rfl

@[simp] theorem State.takeWinner_holding (x : Target) : (s.takeWinner x).holding = s.holding.take (s.wins x) := rfl

@[simp] theorem State.removeEntry_holding (i : EntryNo) :
    (s.removeEntry i).holding = s.holding.take fun e => e.slot == i := rfl

@[simp] theorem State.setCell_holding (c : CellNo) (k : Cell) : (s.setCell c k).holding = s.holding.putCell c k := by
  have cell : (s.setCell c k).cell = Function.update s.cell c k := funext fun d => by
    rw [State.setCell_cell, Function.update_apply]
    simp only [eq_comm]
  simp only [State.holding, cell]
  rfl

/-! The masters' requests -/

theorem State.setMaster_holding (m : MasterNo) (k : Master) :
    (s.setMaster m k).holding = { s.holding with hold := Function.update s.holding.hold m k.outst.hold } := by
  have hold : (s.setMaster m k).holding.hold = Function.update s.holding.hold m k.outst.hold := funext fun q => by
    rw [Function.update_apply]
    simp only [State.holding, State.setMaster_master, eq_comm (a := q)]
    split <;> rfl
  rw [← hold]
  rfl

/-- A master's record changes, and its request is held as before. -/
theorem State.setMaster_holding_same {m : MasterNo} {k : Master} (h : k.outst.hold = (s.master m).outst.hold) :
    (s.setMaster m k).holding = s.holding := by
  rw [State.setMaster_holding, h]
  exact congrArg (fun hold => { s.holding with hold }) (Function.update_eq_self m s.holding.hold)

theorem State.setOutst_holding {m : MasterNo} (o : Outstanding) (h : (s.master m).outst ≠ .none) :
    (s.setOutst m o).holding = { s.holding with hold := Function.update s.holding.hold m o.hold } := by
  rw [State.setOutst_eq s m o h, State.setMaster_holding]

/-- An answer releases its master's request, and what is not outstanding is not held. -/
@[simp] theorem State.answer_holding (m : MasterNo) (a : Answer) : (s.answer m a).holding = s.holding.release m := by
  by_cases h : (s.master m).outst = .none
  · rw [State.answer_none s m a h, Holding.release_of_none]
    simp [State.holding, h, Outstanding.hold]
  · rw [State.answer_eq s m a h]
    exact s.setMaster_holding m _

@[simp] theorem State.forward_holding (m : MasterNo) (rq : Request) (p : Purpose) :
    (s.forward m rq p).holding = s.holding.release m := by
  rw [State.forward, State.handJoin_holding]
  by_cases h : (s.master m).outst = .none
  · rw [State.setOutst_none s m _ h, Holding.release_of_none]
    simp [State.holding, h, Outstanding.hold]
  · rw [State.setOutst_holding s _ h]
    rfl

@[simp] theorem State.forwardRing_holding (m : MasterNo) (rq : Request) (w : WindowNo) (r : RingNo) :
    (s.forwardRing m rq w r).holding = s.holding.release m := s.forward_holding m rq _

@[simp] theorem State.faultWithNotice_holding (m : MasterNo) (a : Word) (reason : Reason) (w : Option WindowNo)
    (sub : Subject) : (s.faultWithNotice m a reason w sub).holding = s.holding.release m := s.answer_holding m _

@[simp] theorem State.ringFault_holding (m : MasterNo) (rq : Request) (w : WindowNo) (r : RingNo) (reason : Reason) :
    (s.ringFault m rq w r reason).holding = s.holding.release m := s.answer_holding m _

@[simp] theorem State.claimFault_holding (m : MasterNo) (rq : Request) (w : WindowNo) (c : CellNo) (reason : Reason) :
    (s.claimFault m rq w c reason).holding = s.holding.release m := s.answer_holding m _

@[simp] theorem State.claimReply_holding (m : MasterNo) (c : CellNo) (waited : Bool) :
    (s.claimReply m c waited).holding = s.holding.release m := s.answer_holding m _

@[simp] theorem State.admissionFault_holding (m : MasterNo) (rq : Request) (reason : Reason) (w : Option WindowNo) :
    (s.admissionFault m rq reason w).holding = s.holding.release m := by
  unfold State.admissionFault
  split
  · exact s.answer_holding m _
  · exact s.faultWithNotice_holding m _ _ _ _

/-- A request in flight is not held, so its answer is nothing to the pool. -/
@[simp] theorem State.answerSource_holding (src : Source) (a : Answer) : (s.answerSource src a).holding = s.holding := by
  unfold State.answerSource
  split
  · split
    · next m rq flying =>
      rw [State.answer_holding, Holding.release_of_none]
      simp [State.holding, flying, Outstanding.hold]
    · rfl
  · rfl
  · rfl

/-! Notices, results and the downstream port -/

@[simp] theorem State.noticeSource_holding (e : QueueEntry) (ending : Ending) (sub : Subject) :
    (s.noticeSource e ending sub).holding = s.holding := by
  unfold State.noticeSource
  split <;> rfl

@[simp] theorem State.noteDetached_holding (r : RingNo) (src : Source) (d : Bool) :
    (s.noteDetached r src d).holding = s.holding := by
  unfold State.noteDetached
  split
  · split <;> rfl
  · rfl

@[simp] theorem State.noticeEntries_holding (reason : Reason) (r : RingNo) : ∀ (l : List ParkEntry) (s : State),
    (s.noticeEntries reason r l).holding = s.holding
  | [], _ => rfl
  | _ :: l, s => State.noticeEntries_holding reason r l (s.giveNotice _)

@[simp] theorem State.countUnbound_holding (r : RingNo) : (s.countUnbound r).holding = s.holding := by
  unfold State.countUnbound
  split <;> rfl

@[simp] theorem State.signalCommit_holding (r : RingNo) (m : MasterNo) (a : Word) :
    (s.signalCommit r m a).holding = s.holding := s.countUnbound_holding r

@[simp] theorem State.cadenceNotice_holding (r : RingNo) (m : MasterNo) (a : Option Word) (old new : CadClass)
    (i : BitVec 16) (w : Bool) : (s.cadenceNotice r m a old new i w).holding = s.holding := s.countUnbound_holding r

@[simp] theorem State.nwEvaluate_holding : s.nwEvaluate.holding = s.holding := by
  rcases s.nwEvaluate_cases with e | ⟨rec, rest, r, w, -, -, -, -, -, e⟩ <;> rw [e]
  rfl

@[simp] theorem State.createNotice_holding (n : Notice) : (s.createNotice n).holding = s.holding := by
  unfold State.createNotice
  dsimp only
  split
  · exact State.nwEvaluate_holding _
  · rfl

@[simp] theorem State.noticeResult_holding (x : NoticeResult) (sent : NoticeRecord) :
    (s.noticeResult x sent).holding = s.holding := by
  unfold State.noticeResult
  split
  · split
    · exact State.nwEvaluate_holding _
    · exact State.nwEvaluate_holding _
  · rfl

@[simp] theorem State.issue_holding (e : QueueEntry) : (s.issue e).holding = s.holding := by
  unfold State.issue
  dsimp only
  rw [State.emit_holding]
  split
  · exact State.setMaster_holding_same _ (Outstanding.issued_hold _)
  · rfl
  · rfl

@[simp] theorem State.arbitrate_holding : s.arbitrate.holding = s.holding := by
  unfold State.arbitrate
  split
  · split
    · exact State.issue_holding _ _
    · rfl
  · rfl

@[simp] theorem State.join_holding (e : QueueEntry) : (s.join e).holding = s.holding := by
  unfold State.join
  split
  · exact s.issue_holding e
  · rfl

@[simp] theorem State.endFlight_holding (e : QueueEntry) (ending : Ending) : (s.endFlight e ending).holding = s.holding :=
  State.arbitrate_holding _

@[simp] theorem State.endSettling_holding : s.endSettling.holding = s.holding := State.arbitrate_holding _

@[simp] theorem State.doneFlight_holding (e : QueueEntry) (data : List Byte) : (s.doneFlight e data).holding = s.holding := by
  unfold State.doneFlight
  split
  · exact s.endFlight_holding _ _
  · split
    · exact s.endFlight_holding _ _
    · exact s.countHole.endFlight_holding _ _

/-! The header copies, the table loader and the end of a reset -/

@[simp] theorem State.copyHeader_holding : s.copyHeader.holding = s.holding := by
  have hold : s.copyHeader.holding.hold = s.holding.hold := funext fun m => by
    simp only [State.holding, State.copyHeader_master]
    split <;> rfl
  exact congrArg (fun hold => { s.holding with hold }) hold

@[simp] theorem State.completeLoad_holding : s.completeLoad.holding = s.holding := by
  rw [State.completeLoad_eq]
  rfl

@[simp] theorem State.failLoad_holding (f : Failure) : (s.failLoad f).holding = s.holding :=
  State.completeLoad_holding _

@[simp] theorem State.finishLoad_holding (l : Load) (staging : List Byte) :
    (s.finishLoad l staging).holding = s.holding := by
  unfold State.finishLoad
  split
  · exact s.failLoad_holding _
  · next i _ =>
    have installed : (s.install i).holding = s.holding := State.copyHeader_holding _
    rw [State.completeLoad_holding, ← installed]
    cases l.origin <;> rfl

@[simp] theorem State.tableReadDone_holding (l : Load) (data : List Byte) :
    (s.tableReadDone l data).holding = s.holding := by
  unfold State.tableReadDone
  split
  · rfl
  · exact s.finishLoad_holding _ _

@[simp] theorem State.endReset_holding (cause : ResetCause) : (s.endReset cause).holding = s.holding := by
  unfold State.endReset
  dsimp only
  split <;> rfl

@[simp] theorem State.idle_holding : s.idle.holding = s.holding := by
  unfold State.idle
  split
  · split
    · exact s.begin.endReset_holding .command
    · rfl
  · rfl

end HoldingOps

end Sys2Proof.Machine

namespace Sys2Proof.Machine

/-! ### Every shared operation keeps the holding lawful -/

section HoldingLaws

variable {s t : State} {m : MasterNo} {rq : Request} {w : WindowNo} {r : RingNo} {c : CellNo} {via : Option Woken}

theorem State.no_entry (h : s.holding.Lawful) (hm : ∀ q, (s.master m).outst ≠ .parked q) :
    ∀ e ∈ s.hp.list, e.master ≠ m :=
  h.no_entry fun q parked => hm q (Outstanding.hold_eq_parked.1 parked)

/-- A request that is not parked is answered or goes downstream. -/
theorem State.release_lawful (h : s.holding.Lawful) (hm : ∀ q, (s.master m).outst ≠ .parked q) :
    (s.holding.release m).Lawful :=
  Holding.Lawful.release h (State.no_entry h hm)

/-! Wakes (R44, R66) -/

/-- The winner of a wake leaves the pool for its replay, and takes its first parking with it (R62, R66). -/
theorem State.wake_lawful (h : s.holding.Lawful) {p : ParkEntry → Bool} {e : ParkEntry} (found : s.hp.list.find? p = some e)
    {k : Woken} (hk : k.order = e.order) : ((s.holding.take p).wake e.master k).Lawful := by
  obtain ⟨hp, pre, post, split, hpre⟩ := List.find?_eq_some_iff_append.1 found
  have rest : s.hp.list.eraseP p = pre ++ post := eraseP_of_split split hp (by simpa using hpre)
  have mem : e ∈ s.holding.list := List.mem_of_find?_eq_some found
  rw [← Holding.release_wake]
  refine (Holding.Lawful.takeEntry h found).wake Holding.release_hold_self ?_ (fun d hd => ?_) (fun q j hq => ?_)
  · rw [hk]
    exact h.before e mem
  · have hd : d ∈ pre ++ post := rest ▸ hd
    have sorted : (pre ++ e :: post).Pairwise fun a b => a.order < b.order := split ▸ h.sorted
    rw [List.pairwise_append, List.pairwise_cons] at sorted
    obtain ⟨-, ⟨later, -⟩, earlier⟩ := sorted
    rw [hk]
    rcases List.mem_append.1 hd with hd | hd
    · exact (earlier d hd e (by simp)).ne
    · exact (later d hd).ne'
  · by_cases hqe : q = e.master
    · subst hqe
      simp at hq
    · rw [Holding.release_hold_ne hqe] at hq
      rw [hk]
      exact ((h.woken q j hq).2 e mem).symm

theorem State.wakeSide_lawful (h : s.holding.Lawful) (r : RingNo) (side : Side) : (s.wakeSide r side).holding.Lawful := by
  rcases s.wakeSide_cases r side with ⟨-, -, e⟩ | e | ⟨x, -, won, e⟩ <;> rw [e]
  · rwa [State.nwEvaluate_holding]
  · exact h
  · have parked := (h.parked x (List.mem_of_find?_eq_some won)).2
    rw [State.setOutst_holding]
    · exact State.wake_lawful h won rfl
    · show (s.master x.master).outst ≠ .none
      rw [Outstanding.hold_eq_parked.1 parked]
      simp

theorem State.wakeRequests_lawful (h : s.holding.Lawful) (r : RingNo) : (s.wakeRequests r).holding.Lawful := by
  unfold State.wakeRequests
  split
  · exact State.wakeSide_lawful (State.wakeSide_lawful h r _) r _
  · exact h

theorem State.freeLane_lawful (h : s.holding.Lawful) (r : RingNo) (side : Side) : (s.freeLane r side).holding.Lawful :=
  State.wakeRequests_lawful (s := s.setLane r side .free) h r

theorem State.dropReservation_lawful (h : s.holding.Lawful) (m : MasterNo) (via : Option Woken) :
    (s.dropReservation m via).holding.Lawful := by
  unfold State.dropReservation
  split
  · exact h
  · split
    · exact State.freeLane_lawful h _ _
    · exact h

/-! Cancellations (R72 to R76) -/

theorem State.answerEntries_holding (reason : Reason) : ∀ (l : List ParkEntry) (s : State),
    (s.answerEntries reason l).holding = (l.map (·.master)).foldl Holding.release s.holding
  | [], _ => rfl
  | e :: l, s => by
    rw [State.answerEntries, State.answerEntries_holding reason l, State.answer_holding]
    rfl

theorem Holding.foldl_release (x : Holding) : ∀ (l : List MasterNo),
    l.foldl Holding.release x = { x with hold := fun m => if m ∈ l then .none else x.hold m } := by
  intro l
  induction l generalizing x with
  | nil => simp
  | cons q l ih =>
    rw [List.foldl_cons, ih]
    simp only [Holding.release, List.mem_cons]
    congr 1
    funext m
    by_cases hq : m = q
    · subst hq
      simp
    · simp [hq]

theorem State.cancelEntries_holding (s : State) (reason : Reason) (p : ParkEntry → Bool) :
    (s.cancelEntries reason p).holding =
      { s.holding with
        list := s.hp.list.filter fun e => !p e
        hold := fun m => if m ∈ (s.hp.list.filter p).map (·.master) then .none else s.holding.hold m } := by
  rw [State.cancelEntries, State.answerEntries_holding, Holding.foldl_release]
  rfl

/-- The entries that `p` names leave the pool with their masters' requests. -/
theorem State.cancelEntries_lawful (h : s.holding.Lawful) (reason : Reason) (p : ParkEntry → Bool) :
    (s.cancelEntries reason p).holding.Lawful := by
  rw [State.cancelEntries_holding]
  refine h.shrink List.filter_sublist rfl (fun m => ?_) (fun e he => if_neg fun answered => ?_) rfl
  · dsimp only
    split
    · exact Or.inr rfl
    · exact Or.inl rfl
  · obtain ⟨kept, stays⟩ := List.mem_filter.1 he
    obtain ⟨d, hd, same⟩ := List.mem_map.1 answered
    obtain ⟨taken, named⟩ := List.mem_filter.1 hd
    obtain rfl : d = e := List.inj_on_of_nodup_map h.masters taken kept same
    simp [named] at stays

theorem State.cancelRing_lawful (h : s.holding.Lawful) (reason : Reason) (r : RingNo) :
    (s.cancelRing reason r).holding.Lawful := by
  rw [State.cancelRing, State.noticeEntries_holding]
  exact State.cancelEntries_lawful h _ _

/-! The end of an ownership (R89, R90) -/

theorem Cell.grant_notLapsed (k : Cell) (m : MasterNo) (lease : BitVec 16) : (k.grant m lease).lapsed ≠ some m := by
  unfold Cell.grant
  dsimp only
  split
  · simp
  · assumption

/-- The cell is free, with no waiters, or it is the winner's, who is out of the pool. -/
theorem State.endOwnership_lawful (h : s.holding.Lawful) (c : CellNo) (forced : Bool) :
    (s.endOwnership c forced).holding.Lawful := by
  rcases s.endOwnership_cases c forced with ⟨none, e⟩ | ⟨x, won, e⟩ <;> rw [e]
  · rw [State.setCell_holding]
    have unwanted := (s.winner_eq_none (.cell c)).1 none
    exact h.putCell (fun _ => rfl) (fun d hd waits => absurd waits (unwanted d hd)) fun m owns => by simp at owns
  · rw [State.answer_holding, State.setCell_holding, State.takeWinner_holding]
    have others := eraseP_other_masters won h.masters
    refine Holding.Lawful.putCell (Holding.Lawful.takeEntry h won) (fun free => ?_) (fun d hd _ => ?_) (fun m owns => ?_)
    · simp [Cell.grant] at free
    · exact ⟨x.master, rfl, (others d hd).symm⟩
    · obtain rfl : x.master = m := by simpa [Cell.grant] using owns
      exact Cell.grant_notLapsed _ _ _

theorem State.forceEnd_lawful (h : s.holding.Lawful) (kind : NoticeKind) (c : CellNo) (m : MasterNo) :
    (s.forceEnd kind c m).holding.Lawful := State.endOwnership_lawful h c true

/-! ### A request in the hands of the part: at its admission, or at a replay with what HP handed over -/

/-- The outstanding request that is admitted, or admitted again. -/
def inHand (rq : Request) : Option Woken → Outstanding
  | none => .admitting rq
  | some k => .laneHeld rq k

theorem inHand_ne_none (rq : Request) (via : Option Woken) : inHand rq via ≠ .none := by cases via <;> simp [inHand]

theorem inHand_ne_parked (rq : Request) (via : Option Woken) (q : Request) : inHand rq via ≠ .parked q := by
  cases via <;> simp [inHand]

theorem State.inHand_release (h : s.holding.Lawful) (hm : (s.master m).outst = inHand rq via) :
    (s.holding.release m).Lawful :=
  State.release_lawful h fun q => by
    rw [hm]
    exact inHand_ne_parked rq via q

/-- A first parking is counted, and its entry goes behind all others (R58, R59). -/
theorem State.park_first_holding {x : Target} {cause : Cause} {limit : BitVec 16} (hm : (s.master m).outst ≠ .none)
    (before : ∀ d ∈ s.hp.list, d.order < s.hp.order) (hp : s.park m rq w x cause limit none = some t) :
    ∃ e : ParkEntry, e.master = m ∧ e.target = x ∧ e.order = s.hp.order ∧ (∀ d ∈ s.hp.list, d.slot ≠ e.slot) ∧
      t.holding = { s.holding with order := s.hp.order + 1 }.park e := by
  unfold State.park at hp
  split at hp <;> cases hp
  next i free =>
  refine ⟨
    { slot := i, master := m, rq := rq, window := w, target := x, cause := cause, seq := s.hp.arrival,
      order := s.hp.order, remaining := limitTime limit }, rfl, rfl, rfl, freeSlot_fresh free, ?_⟩
  rw [State.setOutst_holding _ _ (by exact hm), State.setHp_holding]
  simp only [Holding.park]
  rw [← insertByOrder_between _ before (post := []) (by simp), List.append_nil]
  rfl

/-- A request that parks again goes back to the place of its first parking (R62). -/
theorem State.park_again_holding {x : Target} {cause : Cause} {limit : BitVec 16} {k : Woken}
    (hm : (s.master m).outst ≠ .none) (hp : s.park m rq w x cause limit (some k) = some t) :
    ∃ e : ParkEntry, e.master = m ∧ e.target = x ∧ e.order = k.order ∧ (∀ d ∈ s.hp.list, d.slot ≠ e.slot) ∧
      t.holding = s.holding.park e := by
  unfold State.park at hp
  split at hp <;> cases hp
  next i free =>
  refine ⟨
    { slot := i, master := m, rq := rq, window := w, target := x, cause := cause, seq := k.seq,
      order := k.order, remaining := k.remaining }, rfl, rfl, rfl, freeSlot_fresh free, ?_⟩
  rw [State.setOutst_holding _ _ (by exact hm)]
  rfl

/-- What a park offer asks: the request in hand, of a master other than 0, and for a cell another owner (R42, R59, R62). -/
theorem State.park_lawful (h : s.holding.Lawful) (hm : (s.master m).outst = inHand rq via) (m0 : m ≠ 0) {x : Target}
    {cause : Cause} {limit : BitVec 16} (owned : ∀ c, x = .cell c → ∃ o, (s.cell c).owner = some o ∧ o ≠ m)
    (hp : s.park m rq w x cause limit via = some t) : t.holding.Lawful := by
  have outstanding : (s.master m).outst ≠ .none := hm ▸ inHand_ne_none rq via
  have hold : s.holding.hold m = (inHand rq via).hold := congrArg Outstanding.hold hm
  cases via with
  | none =>
    obtain ⟨e, rfl, rfl, order, slot, parked⟩ := State.park_first_holding outstanding h.before hp
    rw [parked]
    exact h.count.park
      { slot, owned, master := m0, idle := hold, before := order ▸ Nat.lt_succ_self _
        fresh := fun d hd => order ▸ (h.before d hd).ne
        freshWoken := fun q k hq => order ▸ (h.woken q k hq).1.ne }
  | some k =>
    obtain ⟨before, fresh⟩ := h.woken m k hold
    obtain ⟨e, rfl, rfl, order, slot, parked⟩ := State.park_again_holding outstanding hp
    rw [parked, ← Holding.release_park rfl]
    refine (State.inHand_release h hm).park
      { slot, owned, master := m0, idle := Holding.release_hold_self, before := order ▸ before
        fresh := fun d hd => order ▸ fresh d hd, freshWoken := fun q j hq => ?_ }
    by_cases hqe : q = e.master
    · simp [hqe] at hq
    · rw [Holding.release_hold_ne hqe] at hq
      rw [order]
      exact h.apart q e.master j k hqe hq hold

/-- Only a master other than 0 gets past step 2 of admission (R12). -/
theorem State.judge_zero (s : State) (rq : Request) : ∃ reason, s.judge 0 rq = .fault reason none := by
  unfold State.judge
  split
  · exact ⟨_, rfl⟩
  · exact ⟨_, rfl⟩

/-! The ring tracker -/

variable (h : s.holding.Lawful) (hm : (s.master m).outst = inHand rq via)
include h hm

theorem State.ringFault_lawful (reason : Reason) : (s.ringFault m rq w r reason).holding.Lawful := by
  rw [State.ringFault_holding]
  exact State.inHand_release h hm

theorem State.forwardRing_lawful : (s.forwardRing m rq w r).holding.Lawful := by
  rw [State.forwardRing_holding]
  exact State.inHand_release h hm

theorem State.ringPark_lawful (m0 : m ≠ 0) (cause : Cause) : (s.ringPark m rq w r cause via).holding.Lawful := by
  unfold State.ringPark
  dsimp only
  split
  · next t parked =>
    refine State.park_lawful h hm m0 (fun c target => ?_) parked
    cases via <;> cases target
  · exact State.ringFault_lawful h hm _

theorem State.stray_lawful : (s.stray m rq w r).holding.Lawful := by
  have faulted : ∀ k, ((s.setRing r k).ringFault m rq w r .stray).holding.Lawful := fun k =>
    State.ringFault_lawful (s := s.setRing r k) h hm _
  unfold State.stray
  dsimp only
  split
  · exact State.wakeRequests_lawful (faulted _) r
  · rw [State.setHand_holding, State.giveNotice_holding]
    exact faulted _

theorem State.refuseRing_lawful (reason : Reason) : (s.refuseRing m rq w r reason).holding.Lawful :=
  State.wakeRequests_lawful (State.ringFault_lawful (s := s.setLane r (Dir.side rq.dir) .free) h hm reason) r

theorem State.holdRing_lawful (m0 : m ≠ 0) (cause : Cause) : (s.holdRing m rq w r cause via).holding.Lawful :=
  State.wakeRequests_lawful (State.ringPark_lawful (s := s.setLane r (Dir.side rq.dir) .free) h hm m0 cause) r

theorem State.producerFlow_lawful (m0 : m ≠ 0) : (s.producerFlow m rq w r via).holding.Lawful := by
  unfold State.producerFlow
  dsimp only
  split
  · exact State.forwardRing_lawful h hm
  · split
    · exact State.holdRing_lawful h hm m0 _
    · exact State.refuseRing_lawful h hm _
    · split
      · refine State.wakeRequests_lawful ?_ r
        rw [State.forwardRing_holding, State.giveNotice_holding, State.setRing_holding]
        exact State.inHand_release h hm
      · exact State.holdRing_lawful h hm m0 _

theorem State.consumerFlow_lawful (m0 : m ≠ 0) : (s.consumerFlow m rq w r via).holding.Lawful := by
  unfold State.consumerFlow
  dsimp only
  split
  · exact State.forwardRing_lawful h hm
  · split
    · exact State.holdRing_lawful h hm m0 _
    · exact State.refuseRing_lawful h hm _
    · refine State.wakeRequests_lawful ?_ r
      rw [State.answer_holding]
      exact State.inHand_release h hm

theorem State.laneCheck_lawful (m0 : m ≠ 0) : (s.laneCheck m rq w r via).holding.Lawful := by
  unfold State.laneCheck
  dsimp only
  split
  · split
    · split
      · exact State.producerFlow_lawful (s := s.setLane r _ _) h hm m0
      · exact State.consumerFlow_lawful (s := s.setLane r _ _) h hm m0
    · exact State.stray_lawful (s := s.setLane r _ _) h hm
  · exact State.ringPark_lawful h hm m0 _

theorem State.ringHandle_lawful (m0 : m ≠ 0) : (s.ringHandle m rq w r via).holding.Lawful := by
  have faulted : ∀ reason, (s.ringFault m rq w r reason).holding.Lawful := State.ringFault_lawful h hm
  unfold State.ringHandle
  split
  · split
    · exact State.dropReservation_lawful (faulted _) m via
    · exact State.dropReservation_lawful (faulted _) m via
    · exact State.dropReservation_lawful (State.laneCheck_lawful h hm m0) m _
  · exact State.dropReservation_lawful (faulted _) m via

/-! The claim unit -/

theorem State.claimReply_lawful (waited : Bool) : (s.claimReply m c waited).holding.Lawful := by
  rw [State.claimReply_holding]
  exact State.inHand_release h hm

theorem State.claimFault_lawful (reason : Reason) : (s.claimFault m rq w c reason).holding.Lawful := by
  rw [State.claimFault_holding]
  exact State.inHand_release h hm

/-- A free cell, which has no waiters, is granted; a cell of another master may be waited for (R84 to R87). -/
theorem State.claimRead_lawful (m0 : m ≠ 0) : (s.claimRead m rq w c via).holding.Lawful := by
  unfold State.claimRead
  split
  · next free =>
    rw [State.answer_holding, State.setCell_holding]
    refine Holding.Lawful.putCell (State.inHand_release h hm) (fun none => ?_) (fun e he waits => ?_) (fun q owns => ?_)
    · simp [Cell.grant] at none
    · obtain ⟨o, owner, -⟩ := h.owned e he c waits
      exact absurd (free.symm.trans owner) (by simp)
    · obtain rfl : m = q := by simpa [Cell.grant] using owns
      exact Cell.grant_notLapsed _ _ _
  · next o owner =>
    split
    · exact State.claimReply_lawful h hm _
    · next other =>
      split
      · split
        · next t parked =>
          refine State.park_lawful h hm m0 (fun d target => ?_) parked
          cases target
          exact ⟨o, owner, other⟩
        · exact State.claimReply_lawful h hm _
      · exact State.claimReply_lawful h hm _

theorem State.claimWrite_lawful : (s.claimWrite m rq w c).holding.Lawful := by
  unfold State.claimWrite
  split
  · refine State.endOwnership_lawful ?_ c false
    rw [State.answer_holding]
    exact State.inHand_release h hm
  · split
    · rw [State.claimFault_holding, State.setCell_holding]
      exact Holding.Lawful.putCell (State.inHand_release h hm) (h.unleased c) (fun e he => h.owned e he c) fun q _ => by simp
    · exact State.claimFault_lawful h hm _

theorem State.claimHandle_lawful (m0 : m ≠ 0) : (s.claimHandle m rq w c via).holding.Lawful := by
  unfold State.claimHandle
  split
  · split
    · split
      · exact State.claimRead_lawful h hm m0
      · exact State.claimWrite_lawful h hm
    · exact State.claimFault_lawful h hm _
  · exact State.claimFault_lawful h hm _

theorem State.takeAdmission_lawful : (s.takeAdmission m rq via).holding.Lawful := by
  have m0 : (∀ reason, s.judge m rq ≠ .fault reason none) → m ≠ 0 := by
    rintro passes rfl
    obtain ⟨reason, verdict⟩ := s.judge_zero rq
    exact passes reason verdict
  unfold State.takeAdmission
  split
  · refine State.dropReservation_lawful ?_ m via
    rw [State.admissionFault_holding]
    exact State.inHand_release h hm
  · refine State.dropReservation_lawful ?_ m via
    rw [State.forward_holding]
    exact State.inHand_release h hm
  · next verdict => exact State.ringHandle_lawful h hm (m0 fun _ => by simp [verdict])
  · next verdict => exact State.dropReservation_lawful (State.claimHandle_lawful h hm (m0 fun _ => by simp [verdict])) m via

end HoldingLaws

end Sys2Proof.Machine

namespace Sys2Proof.Machine

/-! ### Every command keeps the holding lawful -/

section HoldingCommands

variable {s t : State} {r : RingNo} {m : MasterNo} {c : CellNo}

/-! The upstream port and the completions -/

theorem execUpstreamRequest_holding {rq : Request} (he : execUpstreamRequest m rq s = .next t) : t.holding = s.holding := by
  unfold execUpstreamRequest at he
  split at he
  · split at he <;> cases he
    · next accepted =>
      obtain ⟨idle, -⟩ := accepted
      refine State.setMaster_holding_same s.begin ?_
      rw [State.begin_master, idle]
      rfl
    · rfl
  · cases he

theorem execAdmission_lawful (h : s.holding.Lawful) (he : execAdmission m s = .next t) : t.holding.Lawful := by
  unfold execAdmission at he
  split at he <;> cases he
  · next rq admitting => exact State.takeAdmission_lawful (s := s.begin) h admitting
  · exact h

theorem execReplay_lawful (h : s.holding.Lawful) (he : execReplay m s = .next t) : t.holding.Lawful := by
  unfold execReplay at he
  split at he <;> cases he
  · next rq k woken => exact State.takeAdmission_lawful (s := s.begin) h woken
  · exact h

theorem execPassResult_holding (he : execPassResult m s = .next t) : t.holding = s.holding := by
  unfold execPassResult at he
  split at he
  · dsimp only at he
    split at he <;> cases he <;> simp
  · cases he
    rfl

theorem State.producerDone_lawful (h : s.holding.Lawful) (r : RingNo) (e : QueueEntry) :
    (s.producerDone r e).holding.Lawful := by
  unfold State.producerDone
  dsimp only
  refine State.wakeRequests_lawful ?_ r
  split <;> simpa using h

theorem State.consumerDone_lawful (h : s.holding.Lawful) (r : RingNo) (e : QueueEntry) (data : List Byte) :
    (s.consumerDone r e data).holding.Lawful := by
  unfold State.consumerDone
  exact State.wakeRequests_lawful (by simpa using h) r

theorem State.accessFailed_lawful (h : s.holding.Lawful) (r : RingNo) (side : Side) (e : QueueEntry) (ending : Ending) :
    (s.accessFailed r side e ending).holding.Lawful := by
  unfold State.accessFailed
  exact State.wakeRequests_lawful (by simpa using h) r

theorem execRingProducerDone_lawful (h : s.holding.Lawful) (he : execRingProducerDone r s = .next t) : t.holding.Lawful := by
  unfold execRingProducerDone at he
  dsimp only at he
  split at he <;> cases he
  · exact State.producerDone_lawful (by simpa using h) _ _
  · exact h

theorem execRingConsumerDone_lawful (h : s.holding.Lawful) (he : execRingConsumerDone r s = .next t) : t.holding.Lawful := by
  unfold execRingConsumerDone at he
  dsimp only at he
  split at he <;> cases he
  · exact State.consumerDone_lawful (by simpa using h) _ _ _
  · exact h

theorem execRingAccessFailed_lawful {side : Side} (h : s.holding.Lawful) (he : execRingAccessFailed r side s = .next t) :
    t.holding.Lawful := by
  unfold execRingAccessFailed at he
  dsimp only at he
  split at he <;> cases he
  · exact State.accessFailed_lawful (by simpa using h) _ _ _ _
  · exact h

/-! The downstream port -/

theorem execQueueJoin_holding {src : Source} (he : execQueueJoin src s = .next t) : t.holding = s.holding := by
  unfold execQueueJoin at he
  dsimp only at he
  split at he <;> cases he <;> simp

theorem execDownstreamDone_holding {tag : BitVec 4} {data : List Byte} (he : execDownstreamDone tag data s = .next t) :
    t.holding = s.holding := by
  unfold execDownstreamDone at he
  split at he
  · split at he <;> cases he <;> simp
  · split at he <;> cases he <;> simp
  · cases he
    rfl

theorem execDownstreamRetry_holding {tag : BitVec 4} (he : execDownstreamRetry tag s = .next t) : t.holding = s.holding := by
  unfold execDownstreamRetry at he
  split at he
  · split at he
    · split at he <;> cases he <;> simp
    · cases he
      rfl
  · split at he <;> cases he <;> simp
  · cases he
    rfl

theorem execDownstreamFault_holding {tag : BitVec 4} (he : execDownstreamFault tag s = .next t) : t.holding = s.holding := by
  unfold execDownstreamFault at he
  split at he
  · split at he <;> cases he <;> simp
  · split at he <;> cases he <;> simp
  · cases he
    rfl

theorem execResponseTimeout_holding (he : execResponseTimeout s = .next t) : t.holding = s.holding := by
  unfold execResponseTimeout at he
  split at he
  · split at he <;> cases he <;> simp
  · cases he
    rfl
  · cases he
    rfl

theorem execSettlingEnd_holding (he : execSettlingEnd s = .next t) : t.holding = s.holding := by
  unfold execSettlingEnd at he
  split at he
  · split at he <;> cases he <;> simp
  · cases he
    rfl
  · cases he
    rfl

/-! Notices and cadence -/

theorem execNoticeHandoff_holding {i : Nat} (he : execNoticeHandoff i s = .next t) : t.holding = s.holding := by
  unfold execNoticeHandoff at he
  split at he
  · dsimp only at he
    split at he <;> cases he <;> simp
  · cases he
    rfl

theorem execNoticeWriteResult_holding (he : execNoticeWriteResult s = .next t) : t.holding = s.holding := by
  unfold execNoticeWriteResult at he
  split at he <;> cases he <;> simp

theorem execRunEntryNotices_holding (he : execRunEntryNotices s = .next t) : t.holding = s.holding := by
  unfold execRunEntryNotices at he
  split at he <;> cases he <;> simp

theorem execCadenceCommit_holding (he : execCadenceCommit r s = .next t) : t.holding = s.holding := by
  unfold execCadenceCommit at he
  dsimp only at he
  split at he
  · split at he <;> cases he
    · unfold State.cadenceCommit
      dsimp only
      split <;> simp
    · rfl
  · cases he
    rfl

theorem execWatchExpiry_holding (he : execWatchExpiry r s = .next t) : t.holding = s.holding := by
  unfold execWatchExpiry at he
  split at he
  · dsimp only at he
    split at he <;> cases he <;> simp
  · cases he
    rfl

theorem execStopCadence_holding (he : execStopCadence r s = .next t) : t.holding = s.holding := by
  unfold execStopCadence at he
  split at he <;> cases he <;> rfl

theorem execCadenceRingStart_holding (he : execCadenceRingStart r s = .next t) : t.holding = s.holding := by
  unfold execCadenceRingStart at he
  split at he <;> cases he <;> rfl

/-! Time -/

/-- A tick changes only what an entry has left to wait (R64). -/
theorem Holding.Lawful.tick {x : Holding} (h : x.Lawful) : { x with list := x.list.map ParkEntry.tick }.Lawful where
  slots := by
    rw [List.map_map]
    exact h.slots
  masters := by
    rw [List.map_map]
    exact h.masters
  parked := List.forall_mem_map.2 h.parked
  sorted := List.pairwise_map.2 h.sorted
  before := List.forall_mem_map.2 h.before
  woken m k hw := (h.woken m k hw).imp_right List.forall_mem_map.2
  apart := h.apart
  unleased := h.unleased
  owned := List.forall_mem_map.2 h.owned
  notLapsed := h.notLapsed

theorem execTick_lawful (h : s.holding.Lawful) (he : execTick s = .next t) : t.holding.Lawful := by
  unfold execTick at he
  split at he <;> cases he
  · exact h
  · exact h.tick

/-- A millisecond step changes only the leases that are present (R94). -/
theorem Holding.Lawful.millisecondStep {x : Holding} (h : x.Lawful) :
    { x with cell := fun d => { x.cell d with lease := countDown (x.cell d).lease } }.Lawful :=
  h.withCells _ (fun d free => congrArg countDown (h.unleased d free)) h.owned h.notLapsed

theorem execMillisecondStep_lawful (h : s.holding.Lawful) (he : execMillisecondStep s = .next t) : t.holding.Lawful := by
  unfold execMillisecondStep at he
  split at he <;> cases he
  · exact h
  · have leases := funext (Tbl.nth_mapAll (fun k : Cell => { k with lease := countDown k.lease }) s.cells)
    show Holding.Lawful { s.holding with cell := (s.cells.mapAll _).nth }
    rw [leases]
    exact h.millisecondStep

/-! The hold pool -/

theorem execRingParkExpiry_lawful {i : EntryNo} (h : s.holding.Lawful) (he : execRingParkExpiry i s = .next t) :
    t.holding.Lawful := by
  unfold execRingParkExpiry at he
  split at he
  · next e found =>
    split at he
    · split at he <;> cases he
      · rw [State.faultWithNotice_holding, State.removeEntry_holding]
        exact h.takeEntry found
      · exact h
    · cases he
      exact h
  · cases he
    exact h

theorem execClaimParkExpiry_lawful {i : EntryNo} (h : s.holding.Lawful) (he : execClaimParkExpiry i s = .next t) :
    t.holding.Lawful := by
  unfold execClaimParkExpiry at he
  split at he
  · next e found =>
    split at he
    · cases he
      exact h
    · split at he <;> cases he
      · rw [State.claimReply_holding, State.removeEntry_holding]
        exact h.takeEntry found
      · exact h
  · cases he
    exact h

theorem execStopPool_lawful (h : s.holding.Lawful) (he : execStopPool s = .next t) : t.holding.Lawful := by
  unfold execStopPool at he
  split at he <;> cases he
  · exact State.cancelEntries_lawful (s := s.begin.setHand _) h _ _
  · exact h

theorem execPoolCancelRingStop_lawful (h : s.holding.Lawful) (he : execPoolCancelRingStop r s = .next t) :
    t.holding.Lawful := by
  unfold execPoolCancelRingStop at he
  split at he <;> cases he
  · exact State.cancelRing_lawful (s := s.begin.setHand _) h _ _
  · exact h

theorem execPoolCancelFreeze_lawful (h : s.holding.Lawful) (he : execPoolCancelFreeze r s = .next t) :
    t.holding.Lawful := by
  unfold execPoolCancelFreeze at he
  split at he <;> cases he
  · exact State.cancelRing_lawful (s := s.begin.setHand _) h _ _
  · exact h

/-! The claim unit -/

theorem execLeaseExpiry_lawful (h : s.holding.Lawful) (he : execLeaseExpiry c s = .next t) : t.holding.Lawful := by
  unfold execLeaseExpiry at he
  split at he
  · split at he <;> cases he
    · exact State.forceEnd_lawful (s := s.begin) h _ _ _
    · exact h
  · cases he
    exact h

theorem execDropOwnerships_lawful (h : s.holding.Lawful) (he : execDropOwnerships m c s = .next t) : t.holding.Lawful := by
  unfold execDropOwnerships at he
  split at he
  · dsimp only at he
    split at he <;> cases he
    · exact State.forceEnd_lawful (s := s.begin.setHand _) h _ _ _
    · exact h
  · cases he
    exact h

/-- The cells are freed as all who wait for one leave the pool (R75, R102). -/
theorem State.stopCells_lawful (h : s.holding.Lawful) :
    ({ s with cells := Tbl.all 64 Cell.reset }.cancelEntries .stopped ParkEntry.onCell).holding.Lawful := by
  have cancelled := State.cancelEntries_lawful h .stopped ParkEntry.onCell
  have freed : ({ s with cells := Tbl.all 64 Cell.reset } : State).cell = fun _ => Cell.reset := funext (Tbl.nth_all _)
  rw [State.cancelEntries_holding] at cancelled ⊢
  simp only [State.holding, freed]
  refine cancelled.withCells _ (fun _ _ => rfl) (fun e he d waits => ?_) (fun _ _ owns => ?_)
  · obtain ⟨-, stays⟩ := List.mem_filter.1 he
    simp [ParkEntry.onCell, waits] at stays
  · cases owns

theorem execStopCells_lawful (h : s.holding.Lawful) (he : execStopCells s = .next t) : t.holding.Lawful := by
  unfold execStopCells at he
  split at he <;> cases he
  · exact State.stopCells_lawful (s := s.begin.setHand { s.hand with stopCells := false }) h
  · exact h

/-! The part's follow-on events and the table loader -/

theorem State.runEntryRing_lawful (h : s.holding.Lawful) (r : RingNo) : (s.runEntryRing r).holding.Lawful := by
  unfold State.runEntryRing
  split
  · exact State.wakeRequests_lawful (by simpa using h) r
  · split
    · exact h
    · exact h

theorem State.foldl_runEntryRing_lawful : ∀ (l : List RingNo) {s : State}, s.holding.Lawful →
    (l.foldl State.runEntryRing s).holding.Lawful
  | [], _, h => h
  | r :: l, _, h => State.foldl_runEntryRing_lawful l (State.runEntryRing_lawful h r)

theorem execRunEntryRings_lawful (h : s.holding.Lawful) (he : execRunEntryRings s = .next t) : t.holding.Lawful := by
  unfold execRunEntryRings at he
  split at he
  · rw [Host.Outcome.next.injEq] at he
    rw [← he]
    exact State.foldl_runEntryRing_lawful _ (by simpa using h)
  · cases he
    exact h

theorem execStopRings_holding (he : execStopRings s = .next t) : t.holding = s.holding := by
  unfold execStopRings at he
  split at he <;> cases he <;> rfl

theorem execHeaderCopy_holding (he : execHeaderCopy s = .next t) : t.holding = s.holding := by
  unfold execHeaderCopy at he
  split at he <;> cases he <;> simp

theorem execTableReadResult_holding (he : execTableReadResult s = .next t) : t.holding = s.holding := by
  unfold execTableReadResult at he
  split at he
  · dsimp only at he
    split at he <;> cases he <;> simp
  · cases he
    rfl

theorem execResetNRelease_holding {st : Straps} (he : execResetNRelease st s = .next t) : t.holding = s.holding := by
  unfold execResetNRelease at he
  split at he <;> cases he
  · rw [State.endReset_holding]
    rfl
  · rfl

theorem execPoll_holding {n : Nat} (he : execPoll s n = .next t) : t.holding = s.holding := by
  unfold execPoll at he
  split at he
  · cases he
    rfl
  · dsimp only at he
    split at he
    · split at he <;> cases he <;> rfl
    · cases he
      rfl

/-! The management commands -/

variable {code : Byte} {owner : State → Reply}

theorem State.takeCommand_lawful (h : s.holding.Lawful)
    (ho : ∀ u : State, u.holding.Lawful → (owner u).state.holding.Lawful) :
    (s.begin.takeCommand code owner).holding.Lawful := by
  obtain ⟨ml, e | e⟩ := s.takeCommand_cases code owner
  · rw [e]
    exact h
  · rw [e]
    exact ho s.framed h

theorem shortCommand_lawful (h : s.holding.Lawful)
    (ho : ∀ u : State, u.holding.Lawful → (owner u).state.holding.Lawful)
    (he : shortCommand code owner s = .next t) : t.holding.Lawful := by
  cases he
  exact State.takeCommand_lawful h ho

/-- A command whose owner leaves the holding alone. -/
theorem shortCommand_lawful_of_holding (h : s.holding.Lawful) (ho : ∀ u : State, (owner u).state.holding = u.holding)
    (he : shortCommand code owner s = .next t) : t.holding.Lawful :=
  shortCommand_lawful h (fun u hu => by rwa [ho u]) he

theorem ownReadWindow_holding (b : Byte) (u : State) : (ownReadWindow b u).state.holding = u.holding := by
  unfold ownReadWindow
  split <;> rfl

theorem ownReadRing_holding (b : Byte) (u : State) : (ownReadRing b u).state.holding = u.holding := by
  unfold ownReadRing
  split <;> rfl

theorem ownReadCell_holding (b : Byte) (u : State) : (ownReadCell b u).state.holding = u.holding := by
  unfold ownReadCell
  split <;> rfl

theorem ownReadMaster_holding (b : Byte) (u : State) : (ownReadMaster b u).state.holding = u.holding := by
  unfold ownReadMaster
  split <;> rfl

theorem ownWriteHeader_holding (ws : Tbl Word 14) (u : State) : (ownWriteHeader ws u).state.holding = u.holding := by
  unfold ownWriteHeader
  split
  · rfl
  · split
    · rfl
    · split <;> rfl

theorem ownWriteWindow_holding (b : Byte) (e : WindowWords) (u : State) :
    (ownWriteWindow b e u).state.holding = u.holding := by
  unfold ownWriteWindow
  split
  · rfl
  · split
    · rfl
    · split
      · rfl
      · split
        · rfl
        · split <;> rfl

theorem ownWriteRing_holding (b : Byte) (rec : RingWords) (u : State) :
    (ownWriteRing b rec u).state.holding = u.holding := by
  unfold ownWriteRing
  split
  · rfl
  · split
    · split
      · rfl
      · split
        · rfl
        · split <;> rfl
    · rfl

theorem ownRingStart_lawful (b : Byte) (u : State) (h : u.holding.Lawful) : (ownRingStart b u).state.holding.Lawful := by
  unfold ownRingStart
  split
  · exact h
  · next r _ =>
    split
    · exact h
    · split
      · exact h
      · exact State.wakeRequests_lawful (s := (u.setRing r _).setHand _) h r

theorem ownRingStop_holding (b : Byte) (u : State) : (ownRingStop b u).state.holding = u.holding := by
  unfold ownRingStop
  split
  · rfl
  · split <;> rfl

theorem ownFreeCell_lawful (b : Byte) (u : State) (h : u.holding.Lawful) : (ownFreeCell b u).state.holding.Lawful := by
  unfold ownFreeCell
  split
  · exact h
  · split
    · exact h
    · split
      · exact h
      · exact State.forceEnd_lawful h _ _ _

theorem ownSetPriority_holding (b p : Byte) (u : State) : (ownSetPriority b p u).state.holding = u.holding := by
  unfold ownSetPriority
  split
  · rfl
  · split
    · exact State.setMaster_holding_same u rfl
    · rfl

theorem ownReopenMaster_holding (b : Byte) (u : State) : (ownReopenMaster b u).state.holding = u.holding := by
  unfold ownReopenMaster
  split
  · rfl
  · split
    · rfl
    · exact State.setMaster_holding_same u rfl

theorem State.withdraw_lawful (h : s.holding.Lawful) (hm : ∀ rq, (s.master m).outst ≠ .parked rq) :
    (s.withdraw m).holding.Lawful := by
  have answered : ((s.removeQueued m).answer m (.fault .dropped)).holding.Lawful := by
    rw [State.answer_holding]
    exact State.release_lawful h hm
  unfold State.withdraw
  dsimp only
  split
  · unfold State.releaseWithdrawn
    split
    · exact State.wakeRequests_lawful (by rwa [State.setLane_holding]) _
    · exact answered
    · exact answered
    · exact answered
  · exact answered

theorem State.dropRequest_lawful (h : s.holding.Lawful) (m : MasterNo) : (s.dropRequest m).holding.Lawful := by
  unfold State.dropRequest
  split
  · next rq queued => exact State.withdraw_lawful h fun q => by simp [queued]
  · exact State.cancelEntries_lawful h _ _
  · exact h
  · exact h
  · exact h
  · exact h

theorem ownDropMaster_lawful (b : Byte) (u : State) (h : u.holding.Lawful) : (ownDropMaster b u).state.holding.Lawful := by
  unfold ownDropMaster
  split
  · exact h
  · next m _ =>
    split
    · exact h
    · have fenced : (u.setMaster m { u.master m with state := .fenced }).holding = u.holding :=
        State.setMaster_holding_same u rfl
      refine State.dropRequest_lawful ?_ m
      rwa [State.setHand_holding, State.giveNotice_holding, fenced]

theorem ownTakeNotice_holding (u : State) : (ownTakeNotice u).state.holding = u.holding := by
  unfold ownTakeNotice
  split <;> rfl

theorem ownSetMask_holding (b : Byte) (u : State) : (ownSetMask b u).state.holding = u.holding := by
  unfold ownSetMask
  split <;> rfl

theorem ownClearStall_holding (u : State) : (ownClearStall u).state.holding = u.holding := by
  unfold ownClearStall
  split
  · exact State.nwEvaluate_holding _
  · rfl
  · rfl

theorem ownStop_holding (u : State) : (ownStop u).state.holding = u.holding := by
  unfold ownStop
  split <;> rfl

theorem ownStart_holding (u : State) : (ownStart u).state.holding = u.holding := by
  unfold ownStart
  split <;> rfl

theorem ownLoad_holding (addr : Word) (frame : Byte) (u : State) : (ownLoad addr frame u).state.holding = u.holding := by
  unfold ownLoad
  split
  · rfl
  · split <;> rfl

theorem State.reset_lawful : State.reset.holding.Lawful :=
  (State.holding_lawful_iff _).2 ⟨State.reset_poolLaw, State.reset_cellLaw⟩

theorem ownReset_lawful (st : Straps) (frame : Byte) (u : State) : (ownReset st frame u).state.holding.Lawful :=
  State.reset_lawful

/-- Whatever the command, the holding is lawful after it when it was lawful before. -/
theorem exec_lawful {i : Instr} (h : s.holding.Lawful) (he : exec i s = .next t) : t.holding.Lawful := by
  have same : t.holding = s.holding → t.holding.Lawful := fun e => e ▸ h
  cases i with
  | upstreamRequest => exact same (execUpstreamRequest_holding he)
  | admission => exact execAdmission_lawful h he
  | replay => exact execReplay_lawful h he
  | queueJoin => exact same (execQueueJoin_holding he)
  | downstreamDone => exact same (execDownstreamDone_holding he)
  | downstreamRetry => exact same (execDownstreamRetry_holding he)
  | downstreamFault => exact same (execDownstreamFault_holding he)
  | responseTimeout => exact same (execResponseTimeout_holding he)
  | settlingEnd => exact same (execSettlingEnd_holding he)
  | passResult => exact same (execPassResult_holding he)
  | ringProducerDone => exact execRingProducerDone_lawful h he
  | ringConsumerDone => exact execRingConsumerDone_lawful h he
  | ringAccessFailed => exact execRingAccessFailed_lawful h he
  | noticeWriteResult => exact same (execNoticeWriteResult_holding he)
  | cadenceCommit => exact same (execCadenceCommit_holding he)
  | watchExpiry => exact same (execWatchExpiry_holding he)
  | tick => exact execTick_lawful h he
  | ringParkExpiry => exact execRingParkExpiry_lawful h he
  | claimParkExpiry => exact execClaimParkExpiry_lawful h he
  | millisecondStep => exact execMillisecondStep_lawful h he
  | leaseExpiry => exact execLeaseExpiry_lawful h he
  | noticeHandoff => exact same (execNoticeHandoff_holding he)
  | tableReadResult => exact same (execTableReadResult_holding he)
  | runEntryRings => exact execRunEntryRings_lawful h he
  | runEntryNotices => exact same (execRunEntryNotices_holding he)
  | stopRings => exact same (execStopRings_holding he)
  | stopPool => exact execStopPool_lawful h he
  | stopCells => exact execStopCells_lawful h he
  | stopCadence => exact same (execStopCadence_holding he)
  | cadenceRingStart => exact same (execCadenceRingStart_holding he)
  | poolCancelRingStop => exact execPoolCancelRingStop_lawful h he
  | poolCancelFreeze => exact execPoolCancelFreeze_lawful h he
  | dropOwnerships => exact execDropOwnerships_lawful h he
  | headerCopy => exact same (execHeaderCopy_holding he)
  | resetNAssert => cases he; exact State.reset_lawful
  | resetNRelease => exact same (execResetNRelease_holding he)
  | commandFrameMalformed =>
    change execCommandFrameMalformed _ _ s = .next t at he
    unfold execCommandFrameMalformed at he
    split at he <;> cases he
    exact State.takeCommand_lawful h fun _ hu => hu
  | poll => exact same (execPoll_holding he)
  | status => exact shortCommand_lawful_of_holding h (fun _ => rfl) he
  | readHeader => exact shortCommand_lawful_of_holding h (fun _ => rfl) he
  | writeHeader ws => exact shortCommand_lawful_of_holding h (ownWriteHeader_holding ws) he
  | readWindow b => exact shortCommand_lawful_of_holding h (ownReadWindow_holding b) he
  | writeWindow b e => exact shortCommand_lawful_of_holding h (ownWriteWindow_holding b e) he
  | readRing b => exact shortCommand_lawful_of_holding h (ownReadRing_holding b) he
  | writeRing b rec => exact shortCommand_lawful_of_holding h (ownWriteRing_holding b rec) he
  | ringStart b => exact shortCommand_lawful h (ownRingStart_lawful b) he
  | ringStop b => exact shortCommand_lawful_of_holding h (ownRingStop_holding b) he
  | readCell b => exact shortCommand_lawful_of_holding h (ownReadCell_holding b) he
  | freeCell b => exact shortCommand_lawful h (ownFreeCell_lawful b) he
  | readMaster b => exact shortCommand_lawful_of_holding h (ownReadMaster_holding b) he
  | setPriority b p => exact shortCommand_lawful_of_holding h (ownSetPriority_holding b p) he
  | dropMaster b => exact shortCommand_lawful h (ownDropMaster_lawful b) he
  | reopenMaster b => exact shortCommand_lawful_of_holding h (ownReopenMaster_holding b) he
  | readPool => exact shortCommand_lawful_of_holding h (fun _ => rfl) he
  | takeNotice => exact shortCommand_lawful_of_holding h ownTakeNotice_holding he
  | setMask mask => exact shortCommand_lawful_of_holding h (ownSetMask_holding mask) he
  | clearStall => exact shortCommand_lawful_of_holding h ownClearStall_holding he
  | clearLost => exact shortCommand_lawful_of_holding h (fun _ => rfl) he
  | stop => exact shortCommand_lawful_of_holding h ownStop_holding he
  | start => exact shortCommand_lawful_of_holding h ownStart_holding he
  | load addr => exact shortCommand_lawful_of_holding h (ownLoad_holding addr s.ml.frame) he
  | reset st => exact shortCommand_lawful h (fun u _ => ownReset_lawful st s.ml.frame u) he

end HoldingCommands

end Sys2Proof.Machine

namespace Sys2Proof.Proofs

open Sys2Proof.Machine

/-- Settles O8: the two laws are the lawfulness of one holding, which the idling of an empty queue leaves as it is and every command keeps. -/
theorem waiterAndOwnerLawsKept : Obligations.WaiterAndOwnerLawsKept := by
  intro s t pool cells h
  have law := (State.holding_lawful_iff s).2 ⟨pool, cells⟩
  rw [← State.holding_lawful_iff]
  unfold step at h
  split at h
  · cases h
    rwa [State.idle_holding]
  · next c rest _ =>
    have without : { s with pending := rest }.holding.Lawful := law
    exact exec_lawful without h

end Sys2Proof.Proofs

namespace Sys2Proof.Machine

/-! ### The end of an ownership, in the terms of the statements -/

section OwnershipEnds

variable {s t u : State} {m o : MasterNo} {c : CellNo} {e : ParkEntry} {forced : Bool} {b : Byte}

/-- A wake's winner is the pool list's and the priorities' alone (R65, R68). -/
theorem State.winner_congr (list : t.hp.list = s.hp.list) (prio : ∀ q, (t.master q).prio = (s.master q).prio)
    (target : Target) : t.winner target = s.winner target := by
  have entries : t.entryPrio = s.entryPrio := funext fun x => congrArg BitVec.toNat (prio x.master)
  unfold State.winner State.wins State.bestWaiter
  rw [list, entries]

/-- An answer changes no priority and no entry, so it changes no winner. -/
theorem State.answered_winner (ho : (s.master m).outst ≠ .none) (a : Answer) (target : Target) :
    (s.answered m a).winner target = s.winner target := by
  refine State.winner_congr (s := s) (t := s.answered m a) rfl (fun q => ?_) target
  rw [← State.begin_answer s m a ho]
  exact ((State.Handled.start s).answer m a).prio q

/-- Without waiters the cell is free (R89). -/
theorem State.endOwnership_unwanted (h : ∀ x ∈ s.hp.list, x.target ≠ .cell c) :
    s.endOwnership c forced = s.setCell c { (s.cell c).ended forced with owner := none } := by
  rw [State.endOwnership, (s.winner_eq_none _).2 h]

/-- The winning waiter is handed the cell and answered DONE with 0 (R90). -/
theorem State.endOwnership_handover (won : s.winner (.cell c) = some e) (ho : (s.master e.master).outst ≠ .none) :
    s.endOwnership c forced =
      { s with
        masters := s.masters.put e.master { s.master e.master with outst := .none },
        out := s.out ++ [.answer e.master (.done [0, 0, 0, 0])],
        hp := { s.hp with list := s.hp.list.erase e },
        cells := s.cells.put c (((s.cell c).ended forced).grant e.master (winLease (s.window e.window))) } := by
  rw [State.endOwnership, won]
  dsimp only
  rw [State.takeWinner_eq_erase s won, wordBytes_zero]
  exact State.answer_eq _ _ _ ho

/-- After a forced end the former owner stays the lapsed owner of a cell that another master is handed (R99). -/
theorem Cell.ended_grant_other {k : Cell} (owner : k.owner = some o) (other : m ≠ o) (lease : BitVec 16) :
    (k.ended true).grant m lease = { owner := some m, gen := k.gen + 1, lease := limitTime lease, lapsed := some o } := by
  simp [Cell.grant, Cell.ended, owner, other.symm]

/-- A forced end without waiters: the cell is free and its owner the lapsed owner (R89, R99). -/
theorem State.endOwnership_forced_unwanted (owner : (s.cell c).owner = some o) (h : ∀ x ∈ s.hp.list, x.target ≠ .cell c) :
    s.endOwnership c true =
      { s with cells := s.cells.put c { s.cell c with owner := none, lease := none, lapsed := some o } } := by
  rw [State.endOwnership_unwanted h, ← owner]
  rfl

/-- A forced end with a handover: the winner owns the cell and the former owner is the lapsed owner (R90, R99). -/
theorem State.endOwnership_forced_handover (owner : (s.cell c).owner = some o) (won : s.winner (.cell c) = some e)
    (other : e.master ≠ o) (ho : (s.master e.master).outst ≠ .none) :
    s.endOwnership c true =
      { s with
        masters := s.masters.put e.master { s.master e.master with outst := .none },
        out := s.out ++ [.answer e.master (.done [0, 0, 0, 0])],
        hp := { s.hp with list := s.hp.list.erase e },
        cells := s.cells.put c
          { owner := some e.master, gen := (s.cell c).gen + 1, lease := limitTime (winLease (s.window e.window)),
            lapsed := some o } } := by
  rw [State.endOwnership_handover won ho, Cell.ended_grant_other owner other]

/-! The three events that force an end (R95, R97, R98) -/

theorem exec_leaseExpiry_due (due : (s.cell c).lease = some 0) (owner : (s.cell c).owner = some o) :
    exec (.leaseExpiry c) s = .next (s.quiet.forceEnd .lease c o) := by
  simp only [exec, execLeaseExpiry, due, owner, if_true]
  rfl

theorem exec_dropOwnerships_taken (told : (m, c) ∈ s.hand.drops) (owner : (s.cell c).owner = some m) :
    exec (.dropOwnerships m c) s =
      .next ((s.quiet.setHand { s.hand with drops := s.hand.drops.erase (m, c) }).forceEnd .forcedFree c m) := by
  have told : s.hand.drops.contains (m, c) = true := by simpa using told
  exact (if_pos told).trans (if_pos owner)

theorem ownFreeCell_badArg (h : 64 ≤ b.toNat) : ownFreeCell b u = refuse u .badArg := by
  rw [ownFreeCell, numArg_big h]

theorem ownFreeCell_badState (h : u.part ≠ .running ∨ (u.cell c).owner = none) :
    ownFreeCell (BitVec.ofNat 8 c.val) u = refuse u .badState := by
  rw [ownFreeCell, numArg_val c (by decide)]
  dsimp only
  split
  · rfl
  · next running =>
    rw [h.resolve_left running]

theorem ownFreeCell_accept (running : u.part = .running) (owner : (u.cell c).owner = some o) :
    ownFreeCell (BitVec.ofNat 8 c.val) u = accept (u.forceEnd .forcedFree c o) := by
  rw [ownFreeCell, numArg_val c (by decide)]
  simp only [running, ne_eq, not_true_eq_false, if_false, owner]

end OwnershipEnds

end Sys2Proof.Machine

namespace Sys2Proof.Proofs

open Sys2Proof.Machine

/-- Settles O49: the three events come to one forced end, whose two cases are those of the statement. -/
theorem forcedEndsOfOwnership : Obligations.ForcedEndsOfOwnership := by
  refine ⟨fun s ready => ⟨fun b big => shortCommand_refused ready (ownFreeCell_badArg big),
    fun c bad => shortCommand_refused ready (ownFreeCell_badState bad)⟩, fun c o u v owner result => ?_⟩
  have ended : u.endOwnership c true = v := by
    rcases result with ⟨unwanted, rfl⟩ | ⟨e, won, other, waiting, rfl⟩
    · exact State.endOwnership_forced_unwanted owner unwanted
    · exact State.endOwnership_forced_handover owner won other waiting
  have forced (kind : NoticeKind) : u.forceEnd kind c o = v.noticed (u.endNotice kind c o) := by
    rw [State.forceEnd, ended]
    rfl
  refine ⟨fun s quiet due => ?_, fun s ready running framed => ?_, fun s told taken => ?_⟩
  · subst quiet
    exact (exec_leaseExpiry_due due owner).trans (congrArg _ (forced .lease))
  · subst framed
    have link : (s.framed.forceEnd .forcedFree c o).ml = s.framed.ml := ((State.Handled.refl _).forceEnd _ _ _).ml
    have freed := shortCommand_accepted (code := 0x0B) ready (ownFreeCell_accept running owner) link
    rw [forced .forcedFree] at freed
    exact freed
  · subst taken
    exact (exec_dropOwnerships_taken told owner).trans (congrArg _ (forced .forcedFree))

end Sys2Proof.Proofs

namespace Sys2Proof.Machine

/-! ### What the claim unit makes of a request, check by check -/

section ClaimRequests

variable {s : State} {m o : MasterNo} {rq : Request} {w : WindowNo} {c : CellNo} {e : ParkEntry} {i : EntryNo}
  {via : Option Woken} {waited : Bool} {reason : Reason}

/-! The role, then the length (R83) -/

theorem State.claimHandle_noRole (h : winMember (s.window w) rq.dir m = false) :
    s.claimHandle m rq w c via = s.claimFault m rq w c .access := by
  simp [State.claimHandle, h]

theorem State.claimHandle_shape (h : winMember (s.window w) rq.dir m = true) (hl : rq.len ≠ 4) :
    s.claimHandle m rq w c via = s.claimFault m rq w c .claimShape := by
  simp [State.claimHandle, h, hl]

theorem State.admission_of_claimRead (h : (s.master m).outst = .admitting rq) (hr : s.reachesCell m rq w c)
    (hd : rq.dir = .read) : exec (.admission m) s = .next (s.begin.claimRead m rq w c none) := by
  obtain ⟨reached, kind, cell, role, len⟩ := hr
  rw [State.admission_of_claim s h reached kind cell, State.claimHandle, State.begin_window, if_pos role, if_pos len, hd]

theorem State.admission_of_claimWrite (h : (s.master m).outst = .admitting rq) (hr : s.reachesCell m rq w c)
    (hd : rq.dir = .write) : exec (.admission m) s = .next (s.begin.claimWrite m rq w c) := by
  obtain ⟨reached, kind, cell, role, len⟩ := hr
  rw [State.admission_of_claim s h reached kind cell, State.claimHandle, State.begin_window, if_pos role, if_pos len, hd]

/-! The answers of the claim unit (R82, R100) -/

theorem State.begin_claimFault (ho : (s.master m).outst ≠ .none) :
    s.begin.claimFault m rq w c reason =
      (s.answered m (.fault reason)).noticed (faultNotice reason m rq.addr (some w) (.cell c)) :=
  State.begin_faultWithNotice s ho

theorem State.begin_claimReply (ho : (s.master m).outst ≠ .none) (owner : (s.cell c).owner = some o) :
    s.begin.claimReply m c waited =
      s.answered m (.done [BitVec.ofNat 8 o.val, (s.cell c).gen, 0, if waited then 128 else 0]) := by
  rw [State.claimReply, State.begin_cell, owner, wordBytes_replyWord, State.begin_answer s m _ ho]

theorem State.answer_setCell (ho : (s.master m).outst ≠ .none) (k : Cell) (a : Answer) :
    (s.begin.setCell c k).answer m a = { s.answered m a with cells := s.cells.put c k } :=
  State.begin_answer (s.setCell c k) m a ho

/-! Claim reads (R84 to R87) -/

theorem State.claimRead_free (owner : (s.cell c).owner = none) :
    s.claimRead m rq w c via =
      (s.setCell c ((s.cell c).grant m (winLease (s.window w)))).answer m (.done (wordBytes 0)) := by
  rw [State.claimRead, owner]

theorem State.claimRead_held (owner : (s.cell c).owner = some m) : s.claimRead m rq w c via = s.claimReply m c false := by
  rw [State.claimRead, owner]
  exact if_pos rfl

theorem State.claimRead_nowait (owner : (s.cell c).owner = some o) (other : o ≠ m) (mode : winWait (s.window w) = false) :
    s.claimRead m rq w c via = s.claimReply m c false := by
  rw [State.claimRead, owner]
  simp [other, mode]

theorem State.claimRead_wait (owner : (s.cell c).owner = some o) (other : o ≠ m) (mode : winWait (s.window w) = true) :
    s.claimRead m rq w c via =
      (s.park m rq w (.cell c) .claim (winWaitLimit (s.window w)) via).getD (s.claimReply m c true) := by
  rw [State.claimRead, owner]
  simp only [other, mode, if_true, if_false]
  cases s.park m rq w (.cell c) .claim (winWaitLimit (s.window w)) via <;> rfl

theorem State.begin_park_first (ho : (s.master m).outst ≠ .none) (hi : s.freeEntry i) (target : Target) (cause : Cause)
    (limit : BitVec 16) : s.begin.park m rq w target cause limit none = some (s.parkedAt i m rq w target cause limit) :=
  State.park_first s.begin m rq w target cause limit hi ho

/-! Claim writes (R89 to R93) -/

theorem State.claimWrite_release (owner : (s.cell c).owner = some m) :
    s.claimWrite m rq w c = (s.answer m (.done [])).endOwnership c false := if_pos owner

theorem State.claimWrite_late (owner : (s.cell c).owner ≠ some m) (lapsed : (s.cell c).lapsed = some m) :
    s.claimWrite m rq w c = (s.setCell c { s.cell c with lapsed := none }).claimFault m rq w c .lateRelease :=
  (if_neg owner).trans (if_pos lapsed)

theorem State.claimWrite_notOwner (owner : (s.cell c).owner ≠ some m) (lapsed : (s.cell c).lapsed ≠ some m) :
    s.claimWrite m rq w c = s.claimFault m rq w c .notOwner := (if_neg owner).trans (if_neg lapsed)

/-- Another master than the one that is answered keeps its record. -/
theorem State.answered_master_ne {q : MasterNo} (h : m ≠ q) (a : Answer) : (s.answered m a).master q = s.master q :=
  Tbl.nth_put_ne _ _ h

/-- A release hands the cell over to the winner, who is answered after the releasing master (R90, R91). -/
theorem State.answered_endOwnership_handover (ho : (s.master m).outst ≠ .none) (won : s.winner (.cell c) = some e)
    (other : e.master ≠ m) (waiting : (s.master e.master).outst ≠ .none) (a : Answer) :
    (s.answered m a).endOwnership c false =
      { s.answered m a with
        masters := (s.masters.put m { s.master m with outst := .none }).put e.master
          { s.master e.master with outst := .none },
        out := [.answer m a, .answer e.master (.done [0, 0, 0, 0])],
        hp := { s.hp with list := s.hp.list.erase e },
        cells := s.cells.put c (((s.cell c).ended false).grant e.master (winLease (s.window e.window))) } := by
  have kept : (s.answered m a).master e.master = s.master e.master := State.answered_master_ne other.symm a
  rw [State.endOwnership_handover ((State.answered_winner ho a _).trans won) (by rwa [kept]), kept]
  rfl

end ClaimRequests

end Sys2Proof.Machine

namespace Sys2Proof.Proofs

open Sys2Proof.Machine

/-- Settles O19: the refusal of a NOWAIT window is the reply word of the owned cell. -/
theorem claimReadRefusedWithoutWait : Obligations.ClaimReadRefusedWithoutWait := by
  intro m o rq w c s h reached hd owner other mode
  have ho := Outstanding.ne_none_of_admitting h
  rw [State.admission_of_claimRead h reached hd, State.claimRead_nowait (s := s.begin) owner other mode,
    State.begin_claimReply ho owner]
  rfl

/-- Settles O20: the four ends of a claim read. -/
theorem claimReadsGrantedHeldOrWaiting : Obligations.ClaimReadsGrantedHeldOrWaiting := by
  intro m rq w c s h reached hd
  have ho := Outstanding.ne_none_of_admitting h
  rw [State.admission_of_claimRead h reached hd]
  refine ⟨fun owner => ?_, fun owner => ?_, fun o owner other mode => ?_⟩
  · rw [State.claimRead_free (s := s.begin) owner, State.answer_setCell ho, wordBytes_zero]
    rfl
  · rw [State.claimRead_held (s := s.begin) owner, State.begin_claimReply ho owner]
    rfl
  · rw [State.claimRead_wait (s := s.begin) owner other mode]
    refine ⟨fun i entry => ?_, fun full => ?_⟩
    · rw [State.begin_park_first ho entry]
      rfl
    · rw [State.park_full s.begin m rq w _ _ _ none full, State.begin_claimReply ho owner]
      rfl

/-- Settles O21: the owner's release with its handover, the lapsed owner's late release, and the refusal of any other. -/
theorem claimWrites : Obligations.ClaimWrites := by
  intro m rq w c s h reached hd
  have ho := Outstanding.ne_none_of_admitting h
  rw [State.admission_of_claimWrite h reached hd]
  refine ⟨fun owner unwanted => ?_, fun e owner won other waiting => ?_, fun owner lapsed => ?_, fun owner lapsed => ?_⟩
  · rw [State.claimWrite_release (s := s.begin) owner, State.begin_answer s m _ ho,
      State.endOwnership_unwanted (s := s.answered m _) unwanted]
    rfl
  · rw [State.claimWrite_release (s := s.begin) owner, State.begin_answer s m _ ho,
      State.answered_endOwnership_handover ho won other waiting]
    rfl
  · rw [State.claimWrite_late (s := s.begin) owner lapsed]
    exact congrArg _ (State.begin_claimFault (s := s.setCell c { s.cell c with lapsed := none }) ho)
  · rw [State.claimWrite_notOwner (s := s.begin) owner lapsed, State.begin_claimFault ho]

/-- Settles O22: the first check of the claim unit is the role's, the second the length's. -/
theorem claimRoleThenShape : Obligations.ClaimRoleThenShape := by
  intro m rq w s h reached kind
  have ho := Outstanding.ne_none_of_admitting h
  rw [State.admission_of_claim s h reached kind rfl]
  refine ⟨fun role => ?_, fun role len => ?_⟩
  · rw [State.claimHandle_noRole (s := s.begin) role, State.begin_claimFault ho]
  · rw [State.claimHandle_shape (s := s.begin) role len, State.begin_claimFault ho]

end Sys2Proof.Proofs

namespace Sys2Proof.Machine

/-! ### The cadence monitor's events (Section 5) -/

section CadenceEvents

variable {s u : State} {r : RingNo} {v : WindowNo} {m : MasterNo} {a : Option Word} {old new x : CadClass} {w : Bool}
  {i : BitVec 16} {k : Cadence} {cfg : RingConfig} {c : CommitSignal} {pre post : List CommitSignal}

/-! The class of an interval (R107) -/

theorem intervalClass_slow (h : cfg.target.toNat + cfg.tolerance.toNat < i.toNat) : intervalClass cfg i = .slow := if_pos h

theorem intervalClass_fast (h : i.toNat + cfg.tolerance.toNat < cfg.target.toNat) : intervalClass cfg i = .fast := by
  rw [intervalClass, if_neg (by omega), if_pos (by omega)]

theorem intervalClass_on (low : cfg.target.toNat ≤ i.toNat + cfg.tolerance.toNat)
    (high : i.toNat ≤ cfg.target.toNat + cfg.tolerance.toNat) : intervalClass cfg i = .on := by
  rw [intervalClass, if_neg (by omega), if_neg (by omega)]

/-! The confirmation of a measured class (R108) -/

theorem Cadence.confirm_same (count : Nat) : k.confirm k.cls count = { k with candidate := none, run := 0 } := if_pos rfl

/-- The run length of a class that differs from the ring's: one more for the candidate, 1 for a new candidate. -/
theorem Cadence.confirm_other {n count : Nat} (other : x ≠ k.cls) (hn : n = if k.candidate = some x then k.run + 1 else 1) :
    k.confirm x count =
      if n = count then { k with cls := x, candidate := none, run := 0 } else { k with candidate := some x, run := n } := by
  subst hn
  exact if_neg other

/-! The cadence state after a commit (R106) -/

theorem Cadence.commit_first (first : k.elapsed = none) :
    k.commit cfg = { k with elapsed := some 0, watch := some (watchTime cfg) } := by
  simp only [Cadence.commit, first]

theorem Cadence.commit_later (later : k.elapsed = some i) :
    k.commit cfg =
      { k.confirm (intervalClass cfg i) cfg.confirm with last := some i, elapsed := some 0, watch := some (watchTime cfg) } := by
  simp only [Cadence.commit, later]

/-! The notice of a changed class (R112; log 36) -/

theorem State.cadenceNotice_of_bound (bound : u.boundWindow r = some v) :
    u.cadenceNotice r m a old new i w =
      u.noticed
        { kind := .cadence, master := m, window := some v, subject := .ring r, reason := none, addr := a,
          detail := .cadence old new i w } := by
  simp only [State.cadenceNotice, State.countUnbound, State.cadenceWindow, bound]
  rfl

theorem State.cadenceNotice_of_unbound (unbound : u.boundWindow r = none) :
    u.cadenceNotice r m a old new i w =
      { u with free := u.free + 1 }.noticed
        { kind := .cadence, master := m, window := some (u.cadenceWindow r), subject := .ring r, reason := none, addr := a,
          detail := .cadence old new i w } := by
  simp only [State.cadenceNotice, State.countUnbound, unbound]
  rfl

/-! CM takes the oldest commit signal of the ring (R104, R106) -/

/-- The state in which CM handles a commit signal: the signal has left the hand-offs, and nothing is driven. -/
abbrev State.commitTaken (s : State) (rest : List CommitSignal) : State :=
  s.quiet.setHand { s.hand with commits := rest }

theorem State.exec_cadenceCommit (split : s.hand.commits = pre ++ c :: post) (oldest : ∀ y ∈ pre, y.ring ≠ c.ring) :
    exec (.cadenceCommit c.ring) s =
      if (s.ring c.ring).monitored then .next ((s.commitTaken (pre ++ post)).cadenceCommit c)
      else .next (s.commitTaken (pre ++ post)) := by
  have others : ∀ y ∈ pre, (y.ring == c.ring) = false := by simpa using oldest
  have rest : s.hand.commits.eraseP (fun y => y.ring == c.ring) = pre ++ post := eraseP_of_split split (by simp) others
  simp only [exec, execCadenceCommit, find?_of_split split (beq_self_eq_true c.ring) others, rest]
  rfl

theorem State.cadenceCommit_kept (committed : (u.cad c.ring).commit (u.ring c.ring).cfg = k)
    (kept : k.cls = (u.cad c.ring).cls) : u.cadenceCommit c = u.setCad c.ring k := by
  subst committed
  exact if_pos kept

theorem State.cadenceCommit_changed (committed : (u.cad c.ring).commit (u.ring c.ring).cfg = k)
    (later : (u.cad c.ring).elapsed = some i) (changed : k.cls ≠ (u.cad c.ring).cls) :
    u.cadenceCommit c =
      (u.setCad c.ring k).cadenceNotice c.ring c.master (some c.addr) (u.cad c.ring).cls k.cls i false := by
  subst committed
  refine (if_neg changed).trans ?_
  rw [later]
  rfl

/-! The watch timer's expiry (R110) -/

theorem State.exec_watchExpiry_slow (due : (s.cad r).watch = some 0) (slow : (s.cad r).cls = .slow) :
    exec (.watchExpiry r) s = .next (s.quiet.setCad r (s.cad r).expire) :=
  (if_pos due).trans (if_pos slow)

theorem State.exec_watchExpiry_other (due : (s.cad r).watch = some 0) (other : (s.cad r).cls ≠ .slow)
    (elapsed : (s.cad r).elapsed = some i) :
    exec (.watchExpiry r) s =
      .next ((s.quiet.setCad r (s.cad r).expire).cadenceNotice r 0 none (s.cad r).cls .slow i true) := by
  refine (if_pos due).trans ((if_neg other).trans ?_)
  rw [elapsed]
  rfl

end CadenceEvents

end Sys2Proof.Machine

namespace Sys2Proof.Proofs

open Sys2Proof.Machine

/-- Settles O44: the class of an interval, then a commit of a ring that is not monitored, the first commit and the later ones. -/
theorem commitsMeasureTheCadence : Obligations.CommitsMeasureTheCadence := by
  refine ⟨fun cfg i => ⟨intervalClass_slow, intervalClass_fast, intervalClass_on⟩, ?_⟩
  rintro _ c pre post _ s split rfl oldest rfl
  rw [State.exec_cadenceCommit split oldest]
  refine ⟨fun idle => if_neg ?_, fun running target => ?_⟩
  · rw [Ring.monitored_iff]
    rintro ⟨running, target⟩
    exact idle.elim (absurd running) target
  rw [if_pos ((Ring.monitored_iff _).2 ⟨running, target⟩)]
  refine ⟨fun first => ?_, fun i later same => ?_, fun i x n later measured other run => ?_⟩
  · have committed := Cadence.commit_first (cfg := (s.ring c.ring).cfg) first
    exact congrArg _ (State.cadenceCommit_kept (u := s.commitTaken (pre ++ post)) committed rfl)
  · have committed := Cadence.commit_later (cfg := (s.ring c.ring).cfg) later
    rw [same, Cadence.confirm_same] at committed
    exact congrArg _ (State.cadenceCommit_kept (u := s.commitTaken (pre ++ post)) committed rfl)
  · have committed := Cadence.commit_later (cfg := (s.ring c.ring).cfg) later
    rw [measured, Cadence.confirm_other other run] at committed
    refine ⟨fun short => ?_, fun full => ?_⟩
    · rw [if_neg short] at committed
      exact congrArg _ (State.cadenceCommit_kept (u := s.commitTaken (pre ++ post)) committed rfl)
    · rw [if_pos full] at committed
      rw [State.cadenceCommit_changed (u := s.commitTaken (pre ++ post)) committed later other]
      exact ⟨fun v bound => congrArg _ (State.cadenceNotice_of_bound bound),
        fun unbound => ⟨_, congrArg _ (State.cadenceNotice_of_unbound unbound)⟩⟩

/-- Settles O45: the two cases of an expiry, a departure and a start. -/
theorem watchExpiryStopAndStart : Obligations.WatchExpiryStopAndStart := by
  rintro r _ s rfl
  refine ⟨fun due slow => ?_, fun i due other elapsed => ?_, fun told => if_pos told, fun told => if_pos told⟩
  · rw [State.exec_watchExpiry_slow due slow, Cadence.expire, ← slow]
    rfl
  · rw [State.exec_watchExpiry_other due other elapsed]
    exact ⟨fun v bound => congrArg _ (State.cadenceNotice_of_bound bound),
      fun unbound => ⟨_, congrArg _ (State.cadenceNotice_of_unbound unbound)⟩⟩

end Sys2Proof.Proofs

namespace Sys2Proof.Machine

/-! ### What the masters are owed, and their records

A request is in the part until it is answered (R119), so what has been driven to a master and what is still outstanding of it come to one
account, which only an acceptance raises (R117). The ledger holds these accounts beside the priorities and states of R120 and R124; every
operation of the blocks keeps it whole. -/

/-- 1 while a request is outstanding, and 0 when none is (R121). -/
def Outstanding.count (o : Outstanding) : Nat := if o = .none then 0 else 1

/-- For each master: the answers driven to it with its outstanding request, its priority and its state. -/
@[ext] structure Ledger where
  account : MasterNo → Nat
  prio : MasterNo → BitVec 2
  state : MasterNo → MasterState

/-- The ledger with other priorities. -/
def Ledger.withPrio (l : Ledger) (prio : MasterNo → BitVec 2) : Ledger := { l with prio := prio }

/-- The ledger with other master states. -/
def Ledger.withState (l : Ledger) (state : MasterNo → MasterState) : Ledger := { l with state := state }

@[simp] theorem Ledger.withPrio_account (l : Ledger) (prio : MasterNo → BitVec 2) :
    (l.withPrio prio).account = l.account := rfl

@[simp] theorem Ledger.withState_account (l : Ledger) (state : MasterNo → MasterState) :
    (l.withState state).account = l.account := rfl

def State.ledger (s : State) : Ledger where
  account m := answersTo m s.out + (s.master m).outst.count
  prio m := (s.master m).prio
  state m := (s.master m).state

theorem State.ledger_account (s : State) (m : MasterNo) :
    s.ledger.account m = answersTo m s.out + (s.master m).outst.count := rfl

@[simp] theorem Outstanding.count_none : Outstanding.none.count = 0 := rfl

theorem Outstanding.count_of_ne {o : Outstanding} (h : o ≠ .none) : o.count = 1 := if_neg h

theorem Outstanding.count_eq_zero_iff {o : Outstanding} : o.count = 0 ↔ o = .none := by simp [Outstanding.count]

@[simp] theorem Outstanding.count_issued (o : Outstanding) : o.issued.count = o.count := by cases o <;> rfl

@[simp] theorem answersTo_emit (q : MasterNo) (out : List Output) (o : Output) :
    answersTo q (out ++ [o]) = answersTo q out + answersTo q [o] := List.countP_append

@[simp] theorem answersTo_answer (q m : MasterNo) (a : Answer) : answersTo q [.answer m a] = if m = q then 1 else 0 := by
  simp [answersTo, List.countP_cons]

/-- While the account of a master stands, the master is answered exactly when its request leaves the part, and once, and no request
enters (R117, R119). -/
theorem State.answered_as_left {s t : State} {m : MasterNo} (h : t.ledger.account m = s.begin.ledger.account m) :
    answersTo m t.out = (if (s.master m).outst ≠ .none ∧ (t.master m).outst = .none then 1 else 0) ∧
      ((s.master m).outst = .none → (t.master m).outst = .none) := by
  have account : answersTo m t.out + (t.master m).outst.count = (s.master m).outst.count :=
    h.trans (Nat.zero_add _)
  by_cases before : (s.master m).outst = .none
  · rw [before, Outstanding.count_none] at account
    obtain ⟨unanswered, noneLeft⟩ := Nat.add_eq_zero_iff.1 account
    exact ⟨by rw [unanswered, if_neg fun left => left.1 before], fun _ => Outstanding.count_eq_zero_iff.1 noneLeft⟩
  · rw [Outstanding.count_of_ne before] at account
    refine ⟨?_, fun none => absurd none before⟩
    by_cases after : (t.master m).outst = .none
    · rw [if_pos ⟨before, after⟩]
      rwa [after, Outstanding.count_none] at account
    · rw [if_neg fun left => after left.2]
      rw [Outstanding.count_of_ne after] at account
      omega

section LedgerOps

variable (s : State)

/-! The updates that touch neither the masters' records nor the links to them -/

@[simp] theorem State.setRing_ledger (r : RingNo) (k : Ring) : (s.setRing r k).ledger = s.ledger := rfl

@[simp] theorem State.setLane_ledger (r : RingNo) (side : Side) (l : Lane) : (s.setLane r side l).ledger = s.ledger := rfl

@[simp] theorem State.setCad_ledger (r : RingNo) (k : Cadence) : (s.setCad r k).ledger = s.ledger := rfl

@[simp] theorem State.stopWatch_ledger (r : RingNo) : (s.stopWatch r).ledger = s.ledger := rfl

@[simp] theorem State.setCell_ledger (c : CellNo) (k : Cell) : (s.setCell c k).ledger = s.ledger := rfl

@[simp] theorem State.setWindow_ledger (w : WindowNo) (k : WindowWords) : (s.setWindow w k).ledger = s.ledger := rfl

@[simp] theorem State.setHp_ledger (x : HoldPool) : (s.setHp x).ledger = s.ledger := rfl

@[simp] theorem State.setDn_ledger (x : Downstream) : (s.setDn x).ledger = s.ledger := rfl

@[simp] theorem State.setNw_ledger (x : NoticeWriter) : (s.setNw x).ledger = s.ledger := rfl

@[simp] theorem State.setMl_ledger (x : MgmtLink) : (s.setMl x).ledger = s.ledger := rfl

@[simp] theorem State.setTl_ledger (x : Loader) : (s.setTl x).ledger = s.ledger := rfl

@[simp] theorem State.setHand_ledger (x : HandOffs) : (s.setHand x).ledger = s.ledger := rfl

@[simp] theorem State.countHole_ledger : s.countHole.ledger = s.ledger := rfl

@[simp] theorem State.giveNotice_ledger (n : Notice) : (s.giveNotice n).ledger = s.ledger := rfl

@[simp] theorem State.handJoin_ledger (e : QueueEntry) : (s.handJoin e).ledger = s.ledger := rfl

@[simp] theorem State.handResult_ledger (e : QueueEntry) (ending : Ending) : (s.handResult e ending).ledger = s.ledger := rfl

@[simp] theorem State.takeResult_ledger (p : DownResult → Bool) : (s.takeResult p).ledger = s.ledger := rfl

@[simp] theorem State.takeWinner_ledger (x : Target) : (s.takeWinner x).ledger = s.ledger := rfl

@[simp] theorem State.removeEntry_ledger (i : EntryNo) : (s.removeEntry i).ledger = s.ledger := rfl

@[simp] theorem State.removeQueued_ledger (m : MasterNo) : (s.removeQueued m).ledger = s.ledger := rfl

@[simp] theorem State.emit_present_ledger (tag : BitVec 4) (d : Dir) (a : Word) (n : Nat) (data : List Byte) :
    (s.emit (.present tag d a n data)).ledger = s.ledger := by
  simp [State.ledger, answersTo]

@[simp] theorem State.emit_mdo_ledger (bytes : List Byte) : (s.emit (.mdo bytes)).ledger = s.ledger := by
  simp [State.ledger, answersTo]

/-! A master's record -/

/-- A master's record is replaced, with a request outstanding in it as before. -/
theorem State.setMaster_ledger {m : MasterNo} {k : Master} (h : k.outst.count = (s.master m).outst.count) :
    (s.setMaster m k).ledger =
      (s.ledger.withPrio (Function.update s.ledger.prio m k.prio)).withState
        (Function.update s.ledger.state m k.state) := by
  ext q <;> by_cases hq : q = m <;>
    simp [Ledger.withPrio, Ledger.withState, State.ledger, State.setMaster_master, hq, h, eq_comm (a := m)]

theorem State.setMaster_prio_ledger (m : MasterNo) (p : BitVec 2) :
    ∃ prio, (s.setMaster m { s.master m with prio := p }).ledger = s.ledger.withPrio prio :=
  ⟨_, (State.setMaster_ledger s (k := { s.master m with prio := p }) rfl).trans
    (congrArg (Ledger.withState _) (Function.update_eq_self m s.ledger.state))⟩

theorem State.setMaster_state_ledger (m : MasterNo) (x : MasterState) :
    ∃ state, (s.setMaster m { s.master m with state := x }).ledger = s.ledger.withState state :=
  ⟨_, (State.setMaster_ledger s (k := { s.master m with state := x }) rfl).trans
    (congrArg (fun p => (s.ledger.withPrio p).withState _) (Function.update_eq_self m s.ledger.prio))⟩

theorem State.setMaster_outst_ledger {m : MasterNo} {o : Outstanding} (h : o.count = (s.master m).outst.count) :
    (s.setMaster m { s.master m with outst := o }).ledger = s.ledger :=
  (State.setMaster_ledger s h).trans
    (congrArg₂ (fun p x => (s.ledger.withPrio p).withState x) (Function.update_eq_self m s.ledger.prio)
      (Function.update_eq_self m s.ledger.state))

/-- A request that is outstanding stays so in another phase (R121). -/
theorem State.setOutst_ledger (m : MasterNo) {o : Outstanding} (h : o ≠ .none) : (s.setOutst m o).ledger = s.ledger := by
  by_cases hm : (s.master m).outst = .none
  · rw [State.setOutst_none s m o hm]
  · rw [State.setOutst_eq s m o hm]
    exact s.setMaster_outst_ledger ((Outstanding.count_of_ne h).trans (Outstanding.count_of_ne hm).symm)

/-- An answer takes the request out of the part, so the account stands (R119). -/
@[simp] theorem State.answer_ledger (m : MasterNo) (a : Answer) : (s.answer m a).ledger = s.ledger := by
  by_cases hm : (s.master m).outst = .none
  · rw [State.answer_none s m a hm]
  · rw [State.answer_eq s m a hm]
    ext q <;> by_cases hq : m = q
    · subst hq
      have outstanding : (s.masters.nth m).outst.count = 1 := Outstanding.count_of_ne hm
      simp [State.ledger, State.master, outstanding]
    all_goals simp [State.ledger, State.master, Tbl.nth_put, hq]

end LedgerOps

end Sys2Proof.Machine

namespace Sys2Proof.Machine

/-! ### Every shared operation keeps the ledger -/

section LedgerKept

variable (s : State) (m : MasterNo) (rq : Request) (w : WindowNo) (r : RingNo)

/-! Answers with their notices, and work for the downstream port -/

@[simp] theorem State.faultWithNotice_ledger (a : Word) (reason : Reason) (v : Option WindowNo) (sub : Subject) :
    (s.faultWithNotice m a reason v sub).ledger = s.ledger := s.answer_ledger m _

@[simp] theorem State.forward_ledger (p : Purpose) : (s.forward m rq p).ledger = s.ledger :=
  s.setOutst_ledger m (by simp)

@[simp] theorem State.issue_ledger (e : QueueEntry) : (s.issue e).ledger = s.ledger := by
  unfold State.issue
  rw [State.emit_present_ledger]
  split
  · exact (State.setMaster_outst_ledger _ (Outstanding.count_issued _)).trans (s.setDn_ledger _)
  · rfl
  · rfl

@[simp] theorem State.arbitrate_ledger : s.arbitrate.ledger = s.ledger := by
  unfold State.arbitrate
  split
  · split
    · exact State.issue_ledger _ _
    · rfl
  · rfl

@[simp] theorem State.join_ledger (e : QueueEntry) : (s.join e).ledger = s.ledger := by
  unfold State.join
  split
  · exact s.issue_ledger e
  · rfl

@[simp] theorem State.endFlight_ledger (e : QueueEntry) (ending : Ending) : (s.endFlight e ending).ledger = s.ledger :=
  State.arbitrate_ledger _

@[simp] theorem State.endSettling_ledger : s.endSettling.ledger = s.ledger := State.arbitrate_ledger _

@[simp] theorem State.doneFlight_ledger (e : QueueEntry) (data : List Byte) : (s.doneFlight e data).ledger = s.ledger := by
  unfold State.doneFlight
  split
  · exact s.endFlight_ledger _ _
  · split
    · exact s.endFlight_ledger _ _
    · exact s.countHole.endFlight_ledger _ _

/-! The hold pool, wakes and the ends of ownership -/

theorem State.park_ledger {x : Target} {c : Cause} {limit : BitVec 16} {via : Option Woken} {u : State}
    (h : s.park m rq w x c limit via = some u) : u.ledger = s.ledger := by
  unfold State.park at h
  split at h
  · cases h
  · split at h <;> cases h
    all_goals exact State.setOutst_ledger _ m (by simp)

@[simp] theorem State.answerEntries_ledger (reason : Reason) :
    ∀ (l : List ParkEntry) (s : State), (s.answerEntries reason l).ledger = s.ledger
  | [], _ => rfl
  | _ :: l, s => (answerEntries_ledger reason l _).trans (s.answer_ledger _ _)

@[simp] theorem State.noticeEntries_ledger (reason : Reason) :
    ∀ (l : List ParkEntry) (s : State), (s.noticeEntries reason r l).ledger = s.ledger
  | [], _ => rfl
  | _ :: l, s => (noticeEntries_ledger reason l _).trans (s.giveNotice_ledger _)

@[simp] theorem State.cancelEntries_ledger (reason : Reason) (p : ParkEntry → Bool) :
    (s.cancelEntries reason p).ledger = s.ledger := State.answerEntries_ledger reason _ _

@[simp] theorem State.cancelRing_ledger (reason : Reason) : (s.cancelRing reason r).ledger = s.ledger :=
  (State.noticeEntries_ledger r reason _ _).trans (s.cancelEntries_ledger reason _)

@[simp] theorem State.nwEvaluate_ledger : s.nwEvaluate.ledger = s.ledger := by
  rcases s.nwEvaluate_cases with same | ⟨_, _, _, _, -, -, -, -, -, issued⟩
  · rw [same]
  · rw [issued]
    rfl

@[simp] theorem State.wakeSide_ledger (side : Side) : (s.wakeSide r side).ledger = s.ledger := by
  rcases s.wakeSide_cases r side with ⟨-, -, notice⟩ | same | ⟨e, -, -, woken⟩
  · rw [notice, State.nwEvaluate_ledger]
  · rw [same]
  · rw [woken, State.setOutst_ledger _ _ (by simp)]
    rfl

@[simp] theorem State.wakeRequests_ledger : (s.wakeRequests r).ledger = s.ledger := by
  unfold State.wakeRequests
  split
  · rw [State.wakeSide_ledger, State.wakeSide_ledger]
  · rfl

@[simp] theorem State.endOwnership_ledger (c : CellNo) (forced : Bool) : (s.endOwnership c forced).ledger = s.ledger := by
  rcases s.endOwnership_cases c forced with ⟨-, freed⟩ | ⟨e, -, handed⟩
  · rw [freed]
    rfl
  · rw [handed, State.answer_ledger]
    rfl

@[simp] theorem State.forceEnd_ledger (kind : NoticeKind) (c : CellNo) : (s.forceEnd kind c m).ledger = s.ledger :=
  s.endOwnership_ledger c true

/-! The ring tracker -/

@[simp] theorem State.freeLane_ledger (side : Side) : (s.freeLane r side).ledger = s.ledger :=
  State.wakeRequests_ledger _ r

@[simp] theorem State.dropReservation_ledger (via : Option Woken) : (s.dropReservation m via).ledger = s.ledger := by
  unfold State.dropReservation
  split
  · rfl
  · split
    · exact s.freeLane_ledger _ _
    · rfl

@[simp] theorem State.ringFault_ledger (reason : Reason) : (s.ringFault m rq w r reason).ledger = s.ledger :=
  s.faultWithNotice_ledger _ _ _ _ _

@[simp] theorem State.ringPark_ledger (c : Cause) (via : Option Woken) : (s.ringPark m rq w r c via).ledger = s.ledger := by
  unfold State.ringPark
  dsimp only
  split
  · next parked => exact s.park_ledger _ _ _ parked
  · exact s.ringFault_ledger _ _ _ _ _

@[simp] theorem State.forwardRing_ledger : (s.forwardRing m rq w r).ledger = s.ledger := s.forward_ledger _ _ _

@[simp] theorem State.stray_ledger : (s.stray m rq w r).ledger = s.ledger := by
  unfold State.stray
  dsimp only
  split
  · rw [State.wakeRequests_ledger, State.ringFault_ledger, State.setRing_ledger]
  · rw [State.setHand_ledger, State.giveNotice_ledger, State.ringFault_ledger, State.setRing_ledger]

@[simp] theorem State.refuseRing_ledger (reason : Reason) : (s.refuseRing m rq w r reason).ledger = s.ledger := by
  rw [State.refuseRing, State.wakeRequests_ledger, State.ringFault_ledger, State.setLane_ledger]

@[simp] theorem State.holdRing_ledger (c : Cause) (via : Option Woken) : (s.holdRing m rq w r c via).ledger = s.ledger := by
  rw [State.holdRing, State.wakeRequests_ledger, State.ringPark_ledger, State.setLane_ledger]

@[simp] theorem State.producerFlow_ledger (via : Option Woken) : (s.producerFlow m rq w r via).ledger = s.ledger := by
  unfold State.producerFlow
  dsimp only
  split
  · exact s.forwardRing_ledger _ _ _ _
  · split
    · exact s.holdRing_ledger _ _ _ _ _ _
    · exact s.refuseRing_ledger _ _ _ _ _
    · split
      · rw [State.wakeRequests_ledger, State.forwardRing_ledger, State.giveNotice_ledger, State.setRing_ledger]
      · exact s.holdRing_ledger _ _ _ _ _ _

@[simp] theorem State.consumerFlow_ledger (via : Option Woken) : (s.consumerFlow m rq w r via).ledger = s.ledger := by
  unfold State.consumerFlow
  dsimp only
  split
  · exact s.forwardRing_ledger _ _ _ _
  · split
    · exact s.holdRing_ledger _ _ _ _ _ _
    · exact s.refuseRing_ledger _ _ _ _ _
    · rw [State.wakeRequests_ledger, State.answer_ledger, State.setRing_ledger]

@[simp] theorem State.laneCheck_ledger (via : Option Woken) : (s.laneCheck m rq w r via).ledger = s.ledger := by
  unfold State.laneCheck
  dsimp only
  split
  · split
    · split
      · rw [State.producerFlow_ledger, State.setLane_ledger]
      · rw [State.consumerFlow_ledger, State.setLane_ledger]
    · rw [State.stray_ledger, State.setLane_ledger]
  · exact s.ringPark_ledger _ _ _ _ _ _

@[simp] theorem State.ringHandle_ledger (via : Option Woken) : (s.ringHandle m rq w r via).ledger = s.ledger := by
  unfold State.ringHandle
  split
  · split <;> rw [State.dropReservation_ledger]
    · exact s.ringFault_ledger _ _ _ _ _
    · exact s.ringFault_ledger _ _ _ _ _
    · exact s.laneCheck_ledger _ _ _ _ _
  · rw [State.dropReservation_ledger]
    exact s.ringFault_ledger _ _ _ _ _

/-! The claim unit and admission -/

@[simp] theorem State.claimFault_ledger (c : CellNo) (reason : Reason) : (s.claimFault m rq w c reason).ledger = s.ledger :=
  s.faultWithNotice_ledger _ _ _ _ _

@[simp] theorem State.claimReply_ledger (c : CellNo) (waited : Bool) : (s.claimReply m c waited).ledger = s.ledger :=
  s.answer_ledger _ _

@[simp] theorem State.claimRead_ledger (c : CellNo) (via : Option Woken) : (s.claimRead m rq w c via).ledger = s.ledger := by
  unfold State.claimRead
  split
  · exact State.answer_ledger _ _ _
  · split
    · exact s.claimReply_ledger _ _ _
    · split
      · split
        · next parked => exact s.park_ledger _ _ _ parked
        · exact s.claimReply_ledger _ _ _
      · exact s.claimReply_ledger _ _ _

@[simp] theorem State.claimWrite_ledger (c : CellNo) : (s.claimWrite m rq w c).ledger = s.ledger := by
  unfold State.claimWrite
  split
  · rw [State.endOwnership_ledger, State.answer_ledger]
  · split
    · rw [State.claimFault_ledger, State.setCell_ledger]
    · exact s.claimFault_ledger _ _ _ _ _

@[simp] theorem State.claimHandle_ledger (c : CellNo) (via : Option Woken) :
    (s.claimHandle m rq w c via).ledger = s.ledger := by
  unfold State.claimHandle
  split
  · split
    · split
      · exact s.claimRead_ledger _ _ _ _ _
      · exact s.claimWrite_ledger _ _ _ _
    · exact s.claimFault_ledger _ _ _ _ _
  · exact s.claimFault_ledger _ _ _ _ _

@[simp] theorem State.admissionFault_ledger (reason : Reason) (v : Option WindowNo) :
    (s.admissionFault m rq reason v).ledger = s.ledger := by
  unfold State.admissionFault
  split
  · exact s.answer_ledger _ _
  · exact s.faultWithNotice_ledger _ _ _ _ _

@[simp] theorem State.takeAdmission_ledger (via : Option Woken) : (s.takeAdmission m rq via).ledger = s.ledger := by
  unfold State.takeAdmission
  split
  · rw [State.dropReservation_ledger, State.admissionFault_ledger]
  · rw [State.dropReservation_ledger, State.forward_ledger]
  · exact s.ringHandle_ledger _ _ _ _ _
  · rw [State.dropReservation_ledger, State.claimHandle_ledger]

/-! Results taken by their owners -/

@[simp] theorem State.answerSource_ledger (src : Source) (a : Answer) : (s.answerSource src a).ledger = s.ledger := by
  unfold State.answerSource
  split
  · split
    · exact s.answer_ledger _ _
    · rfl
  · rfl
  · rfl

@[simp] theorem State.noticeSource_ledger (e : QueueEntry) (ending : Ending) (sub : Subject) :
    (s.noticeSource e ending sub).ledger = s.ledger := by
  unfold State.noticeSource
  split <;> rfl

@[simp] theorem State.noteDetached_ledger (src : Source) (d : Bool) : (s.noteDetached r src d).ledger = s.ledger := by
  unfold State.noteDetached
  split
  · split <;> rfl
  · rfl

@[simp] theorem State.countUnbound_ledger : (s.countUnbound r).ledger = s.ledger := by
  unfold State.countUnbound
  split <;> rfl

@[simp] theorem State.signalCommit_ledger (a : Word) : (s.signalCommit r m a).ledger = s.ledger := s.countUnbound_ledger r

@[simp] theorem State.producerDone_ledger (e : QueueEntry) : (s.producerDone r e).ledger = s.ledger := by
  unfold State.producerDone
  dsimp only
  rw [State.wakeRequests_ledger, State.noteDetached_ledger, State.answerSource_ledger]
  split
  · rw [State.signalCommit_ledger, State.setRing_ledger]
  · rw [State.setRing_ledger]

@[simp] theorem State.consumerDone_ledger (e : QueueEntry) (data : List Byte) :
    (s.consumerDone r e data).ledger = s.ledger := by
  unfold State.consumerDone
  dsimp only
  rw [State.wakeRequests_ledger, State.answerSource_ledger, State.setRing_ledger]

@[simp] theorem State.accessFailed_ledger (side : Side) (e : QueueEntry) (ending : Ending) :
    (s.accessFailed r side e ending).ledger = s.ledger := by
  unfold State.accessFailed
  dsimp only
  rw [State.wakeRequests_ledger, State.noteDetached_ledger, State.noticeSource_ledger, State.answerSource_ledger,
    State.setLane_ledger]

/-! Notices and the cadence monitor -/

@[simp] theorem State.createNotice_ledger (n : Notice) : (s.createNotice n).ledger = s.ledger := by
  unfold State.createNotice
  dsimp only
  split
  · exact State.nwEvaluate_ledger _
  · rfl

@[simp] theorem State.noticeResult_ledger (x : NoticeResult) (sent : NoticeRecord) :
    (s.noticeResult x sent).ledger = s.ledger := by
  unfold State.noticeResult
  split
  · split
    · exact State.nwEvaluate_ledger _
    · exact State.nwEvaluate_ledger _
  · rfl

@[simp] theorem State.cadenceNotice_ledger (a : Option Word) (old new : CadClass) (i : BitVec 16) (watch : Bool) :
    (s.cadenceNotice r m a old new i watch).ledger = s.ledger := s.countUnbound_ledger r

@[simp] theorem State.cadenceCommit_ledger (c : CommitSignal) : (s.cadenceCommit c).ledger = s.ledger := by
  unfold State.cadenceCommit
  dsimp only
  split
  · rfl
  · exact State.cadenceNotice_ledger _ _ _ _ _ _ _ _

/-! The part's entry into RUNNING, the end of a reset and a queued request that is withdrawn -/

@[simp] theorem State.runEntryRing_ledger : (s.runEntryRing r).ledger = s.ledger := by
  unfold State.runEntryRing
  split
  · rw [State.wakeRequests_ledger, State.setHand_ledger, State.setRing_ledger]
  · split <;> rfl

@[simp] theorem State.endReset_ledger (cause : ResetCause) : (s.endReset cause).ledger = s.ledger := by
  unfold State.endReset
  dsimp only
  split <;> rfl

@[simp] theorem State.releaseWithdrawn_ledger (e : QueueEntry) : (s.releaseWithdrawn e).ledger = s.ledger := by
  unfold State.releaseWithdrawn
  split
  · rw [State.wakeRequests_ledger, State.setLane_ledger]
  · rfl
  · rfl
  · rfl

@[simp] theorem State.withdraw_ledger : (s.withdraw m).ledger = s.ledger := by
  have answered : ((s.removeQueued m).answer m (.fault .dropped)).ledger = s.ledger := State.answer_ledger _ m _
  unfold State.withdraw
  dsimp only
  split
  · rw [State.releaseWithdrawn_ledger, answered]
  · exact answered

@[simp] theorem State.dropRequest_ledger : (s.dropRequest m).ledger = s.ledger := by
  unfold State.dropRequest
  split
  · exact s.withdraw_ledger m
  · exact s.cancelEntries_ledger _ _
  · rfl
  · rfl
  · rfl
  · rfl

/-! The header copies and the ends of a load: priorities alone -/

theorem State.copyHeader_ledger : ∃ prio, s.copyHeader.ledger = s.ledger.withPrio prio := by
  refine ⟨s.copyHeader.ledger.prio, ?_⟩
  have kept (q : MasterNo) : (s.copyHeader.master q).outst = (s.master q).outst ∧
      (s.copyHeader.master q).state = (s.master q).state := by
    rw [State.copyHeader_master]
    split <;> exact ⟨rfl, rfl⟩
  ext q
  · exact congrArg (answersTo q s.out + Outstanding.count ·) (kept q).1
  · rfl
  · exact (kept q).2

@[simp] theorem State.completeLoad_ledger : s.completeLoad.ledger = s.ledger := by
  rw [State.completeLoad_eq]
  rfl

@[simp] theorem State.failLoad_ledger (f : Failure) : (s.failLoad f).ledger = s.ledger := State.completeLoad_ledger _

theorem State.finishLoad_ledger (l : Load) (staging : List Byte) :
    ∃ prio, (s.finishLoad l staging).ledger = s.ledger.withPrio prio := by
  unfold State.finishLoad
  split
  · exact ⟨_, s.failLoad_ledger _⟩
  · next i _ =>
    obtain ⟨prio, installed⟩ : ∃ prio, (s.install i).ledger = s.ledger.withPrio prio := State.copyHeader_ledger _
    refine ⟨prio, ?_⟩
    rw [State.completeLoad_ledger, ← installed]
    cases l.origin <;> rfl

theorem State.tableReadDone_ledger (l : Load) (data : List Byte) :
    ∃ prio, (s.tableReadDone l data).ledger = s.ledger.withPrio prio := by
  unfold State.tableReadDone
  split
  · exact ⟨_, rfl⟩
  · exact s.finishLoad_ledger _ _

/-! The beginning of a soft reset: every request is answered, and every record is at its reset values -/

theorem State.foldl_answer_ledger (a : Answer) :
    ∀ (l : List MasterNo) (s : State), (l.foldl (fun t q => t.answer q a) s).ledger = s.ledger
  | [], _ => rfl
  | q :: l, s => (foldl_answer_ledger a l _).trans (s.answer_ledger q a)

theorem State.answer_left (a : Answer) : ((s.answer m a).master m).outst = .none := by
  by_cases hm : (s.master m).outst = .none
  · rwa [State.answer_none s m a hm]
  · rw [State.answer_eq s m a hm]
    simp [State.master]

theorem State.foldl_answer_left (a : Answer) (q : MasterNo) :
    ∀ (l : List MasterNo) (s : State), q ∈ l ∨ (s.master q).outst = .none →
      ((l.foldl (fun t p => t.answer p a) s).master q).outst = .none
  | [], _, h => h.resolve_left List.not_mem_nil
  | p :: l, s, h => by
    refine foldl_answer_left a q l (s.answer p a) ?_
    by_cases hp : p = q
    · subst hp
      exact Or.inr (s.answer_left p a)
    · rw [State.answer_master_ne s p a hp]
      exact h.imp_left fun mem => (List.mem_cons.1 mem).resolve_left (Ne.symm hp)

theorem State.answerAll_left (reason : Reason) (q : MasterNo) : ((s.answerAll reason).master q).outst = .none :=
  State.foldl_answer_left _ q _ s (Or.inl (List.mem_finRange q))

theorem State.beginSoftReset_account (st : Straps) : (s.beginSoftReset st).ledger.account = s.ledger.account := by
  have answered : (s.answerAll .reset).ledger = s.ledger := State.foldl_answer_ledger _ _ s
  funext q
  have cleared : (s.beginSoftReset st).master q = Master.reset := State.reset_master q
  have driven : (s.beginSoftReset st).out = (s.answerAll .reset).out := by rw [State.beginSoftReset_eq]
  rw [← answered, State.ledger_account, State.ledger_account, cleared, driven, s.answerAll_left .reset q]
  rfl

end LedgerKept

end Sys2Proof.Machine

namespace Sys2Proof.Machine

/-! ### Every command completes, and what it does to the ledger -/

/-- The command completes, and every master's account, priority and state stand. -/
def State.KeepsLedger (s : State) (o : Host.Outcome State Fault Refusal) : Prop :=
  ∃ t, o = .next t ∧ t.ledger = s.begin.ledger

section LedgerCommands

variable (s : State)

theorem State.keepsLedger_next {s t : State} (h : t.ledger = s.begin.ledger) : s.KeepsLedger (.next t) := ⟨t, rfl, h⟩

/-- An event with nothing to take (log 3). -/
theorem State.keepsLedger_begin : s.KeepsLedger (.next s.begin) := ⟨_, rfl, rfl⟩

/-! Requests and results -/

theorem execUpstreamRequest_accepted {s : State} {m : MasterNo} {rq : Request} (formed : rq.wf = true)
    (idle : (s.master m).outst = .none) (live : s.part ≠ .reset) :
    execUpstreamRequest m rq s = .next (s.phased m (.admitting rq)) := by
  unfold execUpstreamRequest
  rw [if_pos formed, if_pos ⟨idle, live⟩]
  rfl

theorem execUpstreamRequest_heldOff {s : State} {m : MasterNo} {rq : Request} (formed : rq.wf = true)
    (h : (s.master m).outst ≠ .none ∨ s.part = .reset) : execUpstreamRequest m rq s = .next s.quiet := by
  unfold execUpstreamRequest
  rw [if_pos formed, if_neg fun both => h.elim (absurd both.1) both.2]
  rfl

theorem execAdmission_keepsLedger (m : MasterNo) : s.KeepsLedger (execAdmission m s) := by
  unfold execAdmission
  split
  · exact State.keepsLedger_next (State.takeAdmission_ledger _ _ _ _)
  · exact s.keepsLedger_begin

theorem execReplay_keepsLedger (m : MasterNo) : s.KeepsLedger (execReplay m s) := by
  unfold execReplay
  split
  · exact State.keepsLedger_next (State.takeAdmission_ledger _ _ _ _)
  · exact s.keepsLedger_begin

theorem execPassResult_keepsLedger (m : MasterNo) : s.KeepsLedger (execPassResult m s) := by
  unfold execPassResult
  split
  · next x _ =>
    have answered : ((s.begin.takeResult (DownResult.forPass m)).answerSource x.entry.source x.ending.toAnswer).ledger =
        s.begin.ledger := State.answerSource_ledger _ _ _
    dsimp only
    split
    · exact State.keepsLedger_next answered
    · exact State.keepsLedger_next ((State.noticeSource_ledger _ _ _ _).trans answered)
  · exact s.keepsLedger_begin

theorem execRingProducerDone_keepsLedger (r : RingNo) : s.KeepsLedger (execRingProducerDone r s) := by
  unfold execRingProducerDone
  dsimp only
  split
  · exact State.keepsLedger_next (State.producerDone_ledger _ _ _)
  · exact s.keepsLedger_begin

theorem execRingConsumerDone_keepsLedger (r : RingNo) : s.KeepsLedger (execRingConsumerDone r s) := by
  unfold execRingConsumerDone
  dsimp only
  split
  · exact State.keepsLedger_next (State.consumerDone_ledger _ _ _ _)
  · exact s.keepsLedger_begin

theorem execRingAccessFailed_keepsLedger (r : RingNo) (side : Side) : s.KeepsLedger (execRingAccessFailed r side s) := by
  unfold execRingAccessFailed
  dsimp only
  split
  · exact State.keepsLedger_next (State.accessFailed_ledger _ _ _ _ _)
  · exact s.keepsLedger_begin

/-! The downstream port -/

theorem execQueueJoin_keepsLedger (src : Source) : s.KeepsLedger (execQueueJoin src s) := by
  unfold execQueueJoin
  dsimp only
  split
  · exact State.keepsLedger_next (State.join_ledger _ _)
  · exact s.keepsLedger_begin

/-- A response with the settling tag ends SETTLING, and one with another is discarded (R139, R149). -/
theorem State.settlingResponse_keepsLedger (tag t : BitVec 4) :
    s.KeepsLedger (if tag = t then .next s.begin.endSettling else .next s.begin) := by
  split
  · exact State.keepsLedger_next (State.endSettling_ledger _)
  · exact s.keepsLedger_begin

theorem execDownstreamDone_keepsLedger (tag : BitVec 4) (data : List Byte) :
    s.KeepsLedger (execDownstreamDone tag data s) := by
  unfold execDownstreamDone
  split
  · split
    · exact State.keepsLedger_next (State.doneFlight_ledger _ _ _)
    · exact s.keepsLedger_begin
  · exact s.settlingResponse_keepsLedger _ _
  · exact s.keepsLedger_begin

theorem execDownstreamRetry_keepsLedger (tag : BitVec 4) : s.KeepsLedger (execDownstreamRetry tag s) := by
  unfold execDownstreamRetry
  split
  · split
    · split
      · exact State.keepsLedger_next (State.emit_present_ledger _ _ _ _ _ _)
      · exact State.keepsLedger_next (State.endFlight_ledger _ _ _)
    · exact s.keepsLedger_begin
  · exact s.settlingResponse_keepsLedger _ _
  · exact s.keepsLedger_begin

theorem execDownstreamFault_keepsLedger (tag : BitVec 4) : s.KeepsLedger (execDownstreamFault tag s) := by
  unfold execDownstreamFault
  split
  · split
    · exact State.keepsLedger_next (State.endFlight_ledger _ _ _)
    · exact s.keepsLedger_begin
  · exact s.settlingResponse_keepsLedger _ _
  · exact s.keepsLedger_begin

theorem execResponseTimeout_keepsLedger : s.KeepsLedger (execResponseTimeout s) := by
  unfold execResponseTimeout
  split
  · split
    · exact State.keepsLedger_next (State.endFlight_ledger _ _ _)
    · exact s.keepsLedger_begin
  · exact s.keepsLedger_begin
  · exact s.keepsLedger_begin

theorem execSettlingEnd_keepsLedger : s.KeepsLedger (execSettlingEnd s) := by
  unfold execSettlingEnd
  split
  · split
    · exact State.keepsLedger_next (State.endSettling_ledger _)
    · exact s.keepsLedger_begin
  · exact s.keepsLedger_begin
  · exact s.keepsLedger_begin

/-! Notices, the cadence monitor and time -/

theorem execNoticeWriteResult_keepsLedger : s.KeepsLedger (execNoticeWriteResult s) := by
  unfold execNoticeWriteResult
  split
  · exact State.keepsLedger_next (State.noticeResult_ledger _ _ _)
  · exact s.keepsLedger_begin

theorem execNoticeHandoff_keepsLedger (i : Nat) : s.KeepsLedger (execNoticeHandoff i s) := by
  unfold execNoticeHandoff
  split
  · dsimp only
    split
    · exact State.keepsLedger_next (State.createNotice_ledger _ _)
    · exact State.keepsLedger_next rfl
  · exact s.keepsLedger_begin

theorem execRunEntryNotices_keepsLedger : s.KeepsLedger (execRunEntryNotices s) := by
  unfold execRunEntryNotices
  split
  · exact State.keepsLedger_next (State.nwEvaluate_ledger _)
  · exact s.keepsLedger_begin

theorem execCadenceCommit_keepsLedger (r : RingNo) : s.KeepsLedger (execCadenceCommit r s) := by
  unfold execCadenceCommit
  dsimp only
  split
  · split
    · exact State.keepsLedger_next (State.cadenceCommit_ledger _ _)
    · exact State.keepsLedger_next rfl
  · exact s.keepsLedger_begin

theorem execWatchExpiry_keepsLedger (r : RingNo) : s.KeepsLedger (execWatchExpiry r s) := by
  unfold execWatchExpiry
  split
  · dsimp only
    split
    · exact State.keepsLedger_next rfl
    · exact State.keepsLedger_next (State.cadenceNotice_ledger _ _ _ _ _ _ _ _)
  · exact s.keepsLedger_begin

theorem execStopCadence_keepsLedger (r : RingNo) : s.KeepsLedger (execStopCadence r s) := by
  unfold execStopCadence
  split
  · exact State.keepsLedger_next rfl
  · exact s.keepsLedger_begin

theorem execCadenceRingStart_keepsLedger (r : RingNo) : s.KeepsLedger (execCadenceRingStart r s) := by
  unfold execCadenceRingStart
  split
  · exact State.keepsLedger_next rfl
  · exact s.keepsLedger_begin

theorem execTick_keepsLedger : s.KeepsLedger (execTick s) := by
  unfold execTick
  split
  · exact s.keepsLedger_begin
  · exact State.keepsLedger_next rfl

theorem execMillisecondStep_keepsLedger : s.KeepsLedger (execMillisecondStep s) := by
  unfold execMillisecondStep
  split
  · exact s.keepsLedger_begin
  · exact State.keepsLedger_next rfl

/-! Expiries, cancellations and the ends of ownership -/

theorem execRingParkExpiry_keepsLedger (i : EntryNo) : s.KeepsLedger (execRingParkExpiry i s) := by
  unfold execRingParkExpiry
  split
  · split
    · split
      · exact State.keepsLedger_next (State.faultWithNotice_ledger _ _ _ _ _ _)
      · exact s.keepsLedger_begin
    · exact s.keepsLedger_begin
  · exact s.keepsLedger_begin

theorem execClaimParkExpiry_keepsLedger (i : EntryNo) : s.KeepsLedger (execClaimParkExpiry i s) := by
  unfold execClaimParkExpiry
  split
  · split
    · exact s.keepsLedger_begin
    · split
      · exact State.keepsLedger_next (State.claimReply_ledger _ _ _ _)
      · exact s.keepsLedger_begin
  · exact s.keepsLedger_begin

theorem execPoolCancelRingStop_keepsLedger (r : RingNo) : s.KeepsLedger (execPoolCancelRingStop r s) := by
  unfold execPoolCancelRingStop
  split
  · exact State.keepsLedger_next (State.cancelRing_ledger _ _ _)
  · exact s.keepsLedger_begin

theorem execPoolCancelFreeze_keepsLedger (r : RingNo) : s.KeepsLedger (execPoolCancelFreeze r s) := by
  unfold execPoolCancelFreeze
  split
  · exact State.keepsLedger_next (State.cancelRing_ledger _ _ _)
  · exact s.keepsLedger_begin

theorem execStopPool_keepsLedger : s.KeepsLedger (execStopPool s) := by
  unfold execStopPool
  split
  · exact State.keepsLedger_next (State.cancelEntries_ledger _ _ _)
  · exact s.keepsLedger_begin

theorem execStopCells_keepsLedger : s.KeepsLedger (execStopCells s) := by
  unfold execStopCells
  split
  · exact State.keepsLedger_next (State.cancelEntries_ledger _ _ _)
  · exact s.keepsLedger_begin

theorem execLeaseExpiry_keepsLedger (c : CellNo) : s.KeepsLedger (execLeaseExpiry c s) := by
  unfold execLeaseExpiry
  split
  · split
    · exact State.keepsLedger_next (State.forceEnd_ledger _ _ _ _)
    · exact s.keepsLedger_begin
  · exact s.keepsLedger_begin

theorem execDropOwnerships_keepsLedger (m : MasterNo) (c : CellNo) : s.KeepsLedger (execDropOwnerships m c s) := by
  unfold execDropOwnerships
  split
  · dsimp only
    split
    · exact State.keepsLedger_next (State.forceEnd_ledger _ _ _ _)
    · exact State.keepsLedger_next rfl
  · exact s.keepsLedger_begin

/-! The part's follow-on events, the header copies, the table loader and the end of a reset -/

theorem execRunEntryRings_keepsLedger : s.KeepsLedger (execRunEntryRings s) := by
  unfold execRunEntryRings
  split
  · exact State.keepsLedger_next (foldl_keeps _ State.ledger State.runEntryRing_ledger _ _)
  · exact s.keepsLedger_begin

theorem execStopRings_keepsLedger : s.KeepsLedger (execStopRings s) := by
  unfold execStopRings
  split
  · exact State.keepsLedger_next rfl
  · exact s.keepsLedger_begin

theorem execResetNRelease_keepsLedger (st : Straps) : s.KeepsLedger (execResetNRelease st s) := by
  unfold execResetNRelease
  split
  · exact State.keepsLedger_next (State.endReset_ledger _ _)
  · exact s.keepsLedger_begin

theorem execHeaderCopy_ledger : ∃ t prio, execHeaderCopy s = .next t ∧ t.ledger = s.begin.ledger.withPrio prio := by
  unfold execHeaderCopy
  split
  · exact ⟨_, _, rfl, (State.copyHeader_ledger _).choose_spec⟩
  · exact ⟨_, _, rfl, rfl⟩

theorem execTableReadResult_ledger :
    ∃ t prio, execTableReadResult s = .next t ∧ t.ledger = s.begin.ledger.withPrio prio := by
  unfold execTableReadResult
  split
  · dsimp only
    split
    · exact ⟨_, _, rfl, (State.tableReadDone_ledger _ _ _).choose_spec⟩
    · exact ⟨_, _, rfl, State.failLoad_ledger _ _⟩
    · exact ⟨_, _, rfl, State.failLoad_ledger _ _⟩
  · exact ⟨_, _, rfl, rfl⟩

/-! The management link -/

theorem State.takeCommand_ledger {s : State} {code : Byte} {owner : State → Reply}
    (ho : (owner s.framed).state.ledger = s.begin.ledger) : (s.begin.takeCommand code owner).ledger = s.begin.ledger := by
  obtain ⟨ml, h | h⟩ := s.takeCommand_cases code owner
  · rw [h, State.setMl_ledger]
  · rw [h, State.setMl_ledger, ho]

theorem shortCommand_keepsLedger {code : Byte} {owner : State → Reply} (ho : ∀ u, (owner u).state.ledger = u.ledger) :
    s.KeepsLedger (shortCommand code owner s) := State.keepsLedger_next (State.takeCommand_ledger (ho s.framed))

theorem execPoll_keepsLedger (n : Nat) : s.KeepsLedger (execPoll s n) := by
  have driven : (s.begin.emit (.mdo (pollBytes s.ml.response n))).ledger = s.begin.ledger := State.emit_mdo_ledger _ _
  unfold execPoll
  split
  · exact s.keepsLedger_begin
  · dsimp only
    split
    · split
      · exact State.keepsLedger_next driven
      · exact State.keepsLedger_next driven
    · exact State.keepsLedger_next driven

variable (b : Byte) (u : State)

theorem ownReadWindow_ledger : (ownReadWindow b u).state.ledger = u.ledger := by
  unfold ownReadWindow
  split <;> rfl

theorem ownReadRing_ledger : (ownReadRing b u).state.ledger = u.ledger := by
  unfold ownReadRing
  split <;> rfl

theorem ownReadCell_ledger : (ownReadCell b u).state.ledger = u.ledger := by
  unfold ownReadCell
  split <;> rfl

theorem ownReadMaster_ledger : (ownReadMaster b u).state.ledger = u.ledger := by
  unfold ownReadMaster
  split <;> rfl

theorem ownWriteHeader_ledger (w : Tbl Word 14) : (ownWriteHeader w u).state.ledger = u.ledger := by
  unfold ownWriteHeader
  split
  · rfl
  · split
    · rfl
    · split <;> rfl

theorem ownWriteWindow_ledger (e : WindowWords) : (ownWriteWindow b e u).state.ledger = u.ledger := by
  unfold ownWriteWindow
  split
  · rfl
  · split
    · rfl
    · split
      · rfl
      · split
        · rfl
        · split <;> rfl

theorem ownWriteRing_ledger (rec : RingWords) : (ownWriteRing b rec u).state.ledger = u.ledger := by
  unfold ownWriteRing
  split
  · rfl
  · split
    · split
      · rfl
      · split
        · rfl
        · split <;> rfl
    · rfl

theorem ownRingStart_ledger : (ownRingStart b u).state.ledger = u.ledger := by
  unfold ownRingStart
  split
  · rfl
  · split
    · rfl
    · split
      · rfl
      · exact State.wakeRequests_ledger _ _

theorem ownRingStop_ledger : (ownRingStop b u).state.ledger = u.ledger := by
  unfold ownRingStop
  split
  · rfl
  · split <;> rfl

theorem ownFreeCell_ledger : (ownFreeCell b u).state.ledger = u.ledger := by
  unfold ownFreeCell
  split
  · rfl
  · split
    · rfl
    · split
      · rfl
      · exact State.forceEnd_ledger _ _ _ _

theorem ownTakeNotice_ledger : (ownTakeNotice u).state.ledger = u.ledger := by
  unfold ownTakeNotice
  split <;> rfl

theorem ownSetMask_ledger : (ownSetMask b u).state.ledger = u.ledger := by
  unfold ownSetMask
  split <;> rfl

theorem ownClearStall_ledger : (ownClearStall u).state.ledger = u.ledger := by
  unfold ownClearStall
  split
  · exact State.nwEvaluate_ledger _
  · rfl
  · rfl

theorem ownStop_ledger : (ownStop u).state.ledger = u.ledger := by
  unfold ownStop
  split <;> rfl

theorem ownStart_ledger : (ownStart u).state.ledger = u.ledger := by
  unfold ownStart
  split <;> rfl

theorem ownLoad_ledger (addr : Word) (frame : Byte) : (ownLoad addr frame u).state.ledger = u.ledger := by
  unfold ownLoad
  split
  · rfl
  · split <;> rfl

/-! The commands of the master table -/

theorem ownSetPriority_ledger (p : Byte) : ∃ prio, (ownSetPriority b p u).state.ledger = u.ledger.withPrio prio := by
  unfold ownSetPriority
  split
  · exact ⟨_, rfl⟩
  · split
    · exact u.setMaster_prio_ledger _ _
    · exact ⟨_, rfl⟩

theorem ownReopenMaster_ledger : ∃ state, (ownReopenMaster b u).state.ledger = u.ledger.withState state := by
  unfold ownReopenMaster
  split
  · exact ⟨_, rfl⟩
  · split
    · exact ⟨_, rfl⟩
    · exact u.setMaster_state_ledger _ _

theorem ownDropMaster_ledger : ∃ state, (ownDropMaster b u).state.ledger = u.ledger.withState state := by
  unfold ownDropMaster
  split
  · exact ⟨_, rfl⟩
  · next m _ =>
    split
    · exact ⟨_, rfl⟩
    · obtain ⟨state, fenced⟩ := u.setMaster_state_ledger m .fenced
      exact ⟨state, (State.dropRequest_ledger _ m).trans fenced⟩

theorem ownReset_account (st : Straps) (frame : Byte) : (ownReset st frame u).state.ledger.account = u.ledger.account := by
  have begun : (ownReset st frame u).state = (u.beginSoftReset st).setMl _ := rfl
  rw [begun, State.setMl_ledger, State.beginSoftReset_account]

end LedgerCommands

/-! What one command can do to the ledger -/

/-- What a command may leave of the ledger: all of it; one more request, by its acceptance (R117); other priorities, by SET_PRIORITY and
the header copies (R3, R122); other master states, by DROP_MASTER and REOPEN_MASTER (R125, R128); the accounts alone at a soft reset
(R130), and nothing at a hard one (R131). -/
inductive State.LedgerStep (s t : State) : Instr → Prop
  | kept {c : Instr} (same : t.ledger = s.begin.ledger) : LedgerStep s t c
  | accepted {m : MasterNo} {rq : Request} (idle : (s.master m).outst = .none) (entered : t = s.phased m (.admitting rq)) :
      LedgerStep s t (.upstreamRequest m rq)
  | setPriority {b p : Byte} (prio : MasterNo → BitVec 2) (set : t.ledger = s.begin.ledger.withPrio prio) :
      LedgerStep s t (.setPriority b p)
  | headerCopy (prio : MasterNo → BitVec 2) (set : t.ledger = s.begin.ledger.withPrio prio) : LedgerStep s t .headerCopy
  | load (prio : MasterNo → BitVec 2) (set : t.ledger = s.begin.ledger.withPrio prio) : LedgerStep s t .tableReadResult
  | drop {b : Byte} (state : MasterNo → MasterState) (set : t.ledger = s.begin.ledger.withState state) :
      LedgerStep s t (.dropMaster b)
  | reopen {b : Byte} (state : MasterNo → MasterState) (set : t.ledger = s.begin.ledger.withState state) :
      LedgerStep s t (.reopenMaster b)
  | softReset {st : Straps} (answered : t.ledger.account = s.begin.ledger.account) : LedgerStep s t (.reset st)
  | hardReset : LedgerStep s t .resetNAssert

section LedgerInversion

/-- A command completes with what `LedgerStep` allows it. -/
def State.Posts (s : State) (c : Instr) : Prop := ∃ t, exec c s = .next t ∧ s.LedgerStep t c

variable (s : State)

theorem State.KeepsLedger.posts {s : State} {c : Instr} (h : s.KeepsLedger (exec c s)) : s.Posts c := by
  obtain ⟨t, next, same⟩ := h
  exact ⟨t, next, .kept same⟩

theorem posts_upstreamRequest {rq : Request} (m : MasterNo) (formed : rq.wf = true) : s.Posts (.upstreamRequest m rq) := by
  by_cases h : (s.master m).outst = .none ∧ s.part ≠ .reset
  · obtain ⟨idle, live⟩ := h
    exact ⟨_, execUpstreamRequest_accepted formed idle live, .accepted idle rfl⟩
  · have heldOff : (s.master m).outst ≠ .none ∨ s.part = .reset :=
      (not_and_or.1 h).imp_right not_not.1
    exact ⟨_, execUpstreamRequest_heldOff formed heldOff, .kept rfl⟩

theorem posts_commandFrameMalformed {code : Byte} {args : List Byte} (malformed : frameMalformed code args = true) :
    s.Posts (.commandFrameMalformed code args) :=
  ⟨_, if_pos malformed, .kept (State.takeCommand_ledger rfl)⟩

theorem posts_headerCopy : s.Posts .headerCopy := by
  obtain ⟨t, prio, next, set⟩ := execHeaderCopy_ledger s
  exact ⟨t, next, .headerCopy prio set⟩

theorem posts_tableReadResult : s.Posts .tableReadResult := by
  obtain ⟨t, prio, next, set⟩ := execTableReadResult_ledger s
  exact ⟨t, next, .load prio set⟩

theorem posts_setPriority (b p : Byte) : s.Posts (.setPriority b p) := by
  refine ⟨_, rfl, ?_⟩
  obtain ⟨ml, h | h⟩ := s.takeCommand_cases 0x0D (ownSetPriority b p) <;> rw [h]
  · exact .kept rfl
  · exact .setPriority _ (ownSetPriority_ledger b s.framed p).choose_spec

theorem posts_dropMaster (b : Byte) : s.Posts (.dropMaster b) := by
  refine ⟨_, rfl, ?_⟩
  obtain ⟨ml, h | h⟩ := s.takeCommand_cases 0x0E (ownDropMaster b) <;> rw [h]
  · exact .kept rfl
  · exact .drop _ (ownDropMaster_ledger b s.framed).choose_spec

theorem posts_reopenMaster (b : Byte) : s.Posts (.reopenMaster b) := by
  refine ⟨_, rfl, ?_⟩
  obtain ⟨ml, h | h⟩ := s.takeCommand_cases 0x0F (ownReopenMaster b) <;> rw [h]
  · exact .kept rfl
  · exact .reopen _ (ownReopenMaster_ledger b s.framed).choose_spec

theorem posts_reset (st : Straps) : s.Posts (.reset st) := by
  refine ⟨_, rfl, ?_⟩
  obtain ⟨ml, h | h⟩ := s.takeCommand_cases 0x18 (ownReset st s.ml.frame) <;> rw [h]
  · exact .kept rfl
  · refine .softReset ?_
    rw [State.setMl_ledger, ownReset_account]
    rfl

/-- Every well-formed command completes with what `LedgerStep` allows it; only a command of a shape that no link carries does not, and stops
in a fault. -/
theorem exec_posts (c : Instr) : s.Posts c ∨ c.wf = false ∧ ∃ f, exec c s = .fault f := by
  cases c with
  | upstreamRequest m rq =>
    by_cases formed : rq.wf = true
    · exact Or.inl (posts_upstreamRequest s m formed)
    · exact Or.inr ⟨Bool.eq_false_iff.2 formed, _, if_neg formed⟩
  | commandFrameMalformed code args =>
    by_cases malformed : frameMalformed code args = true
    · exact Or.inl (posts_commandFrameMalformed s malformed)
    · exact Or.inr ⟨Bool.eq_false_iff.2 malformed, _, if_neg malformed⟩
  | admission m => exact Or.inl (execAdmission_keepsLedger s m).posts
  | replay m => exact Or.inl (execReplay_keepsLedger s m).posts
  | queueJoin src => exact Or.inl (execQueueJoin_keepsLedger s src).posts
  | downstreamDone tag data => exact Or.inl (execDownstreamDone_keepsLedger s tag data).posts
  | downstreamRetry tag => exact Or.inl (execDownstreamRetry_keepsLedger s tag).posts
  | downstreamFault tag => exact Or.inl (execDownstreamFault_keepsLedger s tag).posts
  | responseTimeout => exact Or.inl (execResponseTimeout_keepsLedger s).posts
  | settlingEnd => exact Or.inl (execSettlingEnd_keepsLedger s).posts
  | passResult m => exact Or.inl (execPassResult_keepsLedger s m).posts
  | ringProducerDone r => exact Or.inl (execRingProducerDone_keepsLedger s r).posts
  | ringConsumerDone r => exact Or.inl (execRingConsumerDone_keepsLedger s r).posts
  | ringAccessFailed r side => exact Or.inl (execRingAccessFailed_keepsLedger s r side).posts
  | noticeWriteResult => exact Or.inl (execNoticeWriteResult_keepsLedger s).posts
  | cadenceCommit r => exact Or.inl (execCadenceCommit_keepsLedger s r).posts
  | watchExpiry r => exact Or.inl (execWatchExpiry_keepsLedger s r).posts
  | tick => exact Or.inl (execTick_keepsLedger s).posts
  | ringParkExpiry i => exact Or.inl (execRingParkExpiry_keepsLedger s i).posts
  | claimParkExpiry i => exact Or.inl (execClaimParkExpiry_keepsLedger s i).posts
  | millisecondStep => exact Or.inl (execMillisecondStep_keepsLedger s).posts
  | leaseExpiry c => exact Or.inl (execLeaseExpiry_keepsLedger s c).posts
  | noticeHandoff i => exact Or.inl (execNoticeHandoff_keepsLedger s i).posts
  | tableReadResult => exact Or.inl (posts_tableReadResult s)
  | runEntryRings => exact Or.inl (execRunEntryRings_keepsLedger s).posts
  | runEntryNotices => exact Or.inl (execRunEntryNotices_keepsLedger s).posts
  | stopRings => exact Or.inl (execStopRings_keepsLedger s).posts
  | stopPool => exact Or.inl (execStopPool_keepsLedger s).posts
  | stopCells => exact Or.inl (execStopCells_keepsLedger s).posts
  | stopCadence r => exact Or.inl (execStopCadence_keepsLedger s r).posts
  | cadenceRingStart r => exact Or.inl (execCadenceRingStart_keepsLedger s r).posts
  | poolCancelRingStop r => exact Or.inl (execPoolCancelRingStop_keepsLedger s r).posts
  | poolCancelFreeze r => exact Or.inl (execPoolCancelFreeze_keepsLedger s r).posts
  | dropOwnerships m c => exact Or.inl (execDropOwnerships_keepsLedger s m c).posts
  | headerCopy => exact Or.inl (posts_headerCopy s)
  | resetNAssert => exact Or.inl ⟨_, rfl, .hardReset⟩
  | resetNRelease st => exact Or.inl (execResetNRelease_keepsLedger s st).posts
  | poll n => exact Or.inl (execPoll_keepsLedger s n).posts
  | status => exact Or.inl (shortCommand_keepsLedger s fun _ => rfl).posts
  | readHeader => exact Or.inl (shortCommand_keepsLedger s fun _ => rfl).posts
  | writeHeader w => exact Or.inl (shortCommand_keepsLedger s fun u => ownWriteHeader_ledger u w).posts
  | readWindow b => exact Or.inl (shortCommand_keepsLedger s (ownReadWindow_ledger b)).posts
  | writeWindow b e => exact Or.inl (shortCommand_keepsLedger s fun u => ownWriteWindow_ledger b u e).posts
  | readRing b => exact Or.inl (shortCommand_keepsLedger s (ownReadRing_ledger b)).posts
  | writeRing b rec => exact Or.inl (shortCommand_keepsLedger s fun u => ownWriteRing_ledger b u rec).posts
  | ringStart b => exact Or.inl (shortCommand_keepsLedger s (ownRingStart_ledger b)).posts
  | ringStop b => exact Or.inl (shortCommand_keepsLedger s (ownRingStop_ledger b)).posts
  | readCell b => exact Or.inl (shortCommand_keepsLedger s (ownReadCell_ledger b)).posts
  | freeCell b => exact Or.inl (shortCommand_keepsLedger s (ownFreeCell_ledger b)).posts
  | readMaster b => exact Or.inl (shortCommand_keepsLedger s (ownReadMaster_ledger b)).posts
  | setPriority b p => exact Or.inl (posts_setPriority s b p)
  | dropMaster b => exact Or.inl (posts_dropMaster s b)
  | reopenMaster b => exact Or.inl (posts_reopenMaster s b)
  | readPool => exact Or.inl (shortCommand_keepsLedger s fun _ => rfl).posts
  | takeNotice => exact Or.inl (shortCommand_keepsLedger s ownTakeNotice_ledger).posts
  | setMask mask => exact Or.inl (shortCommand_keepsLedger s (ownSetMask_ledger mask)).posts
  | clearStall => exact Or.inl (shortCommand_keepsLedger s ownClearStall_ledger).posts
  | clearLost => exact Or.inl (shortCommand_keepsLedger s fun _ => rfl).posts
  | stop => exact Or.inl (shortCommand_keepsLedger s ownStop_ledger).posts
  | start => exact Or.inl (shortCommand_keepsLedger s ownStart_ledger).posts
  | load addr =>
    exact Or.inl (State.KeepsLedger.posts (State.keepsLedger_next (State.takeCommand_ledger (ownLoad_ledger s.framed addr _))))
  | reset st => exact Or.inl (posts_reset s st)

theorem exec_ledgerStep {s t : State} {c : Instr} (h : exec c s = .next t) : s.LedgerStep t c := by
  rcases exec_posts s c with ⟨u, next, step⟩ | ⟨-, f, stopped⟩
  · cases h.symm.trans next
    exact step
  · cases h.symm.trans stopped

variable {s} {t : State} {c : Instr}

/-- The account of a master stands but for the acceptance of its own request and a hard reset. -/
theorem State.LedgerStep.account (h : s.LedgerStep t c) (noAssert : c ≠ .resetNAssert) (m : MasterNo) :
    t.ledger.account m = s.begin.ledger.account m ∨
      ∃ rq, c = .upstreamRequest m rq ∧ (s.master m).outst = .none ∧ t = s.phased m (.admitting rq) := by
  cases h with
  | kept same => exact Or.inl (congrArg (Ledger.account · m) same)
  | accepted idle entered =>
    next q rq =>
    by_cases hq : q = m
    · subst hq
      exact Or.inr ⟨rq, rfl, idle, entered⟩
    · subst entered
      refine Or.inl ?_
      simp [State.ledger, State.phased, State.master, Tbl.nth_put_ne _ _ hq, State.begin]
  | setPriority prio set => exact Or.inl (by rw [set, Ledger.withPrio_account])
  | headerCopy prio set => exact Or.inl (by rw [set, Ledger.withPrio_account])
  | load prio set => exact Or.inl (by rw [set, Ledger.withPrio_account])
  | drop state set => exact Or.inl (by rw [set, Ledger.withState_account])
  | reopen state set => exact Or.inl (by rw [set, Ledger.withState_account])
  | softReset answered => exact Or.inl (congrFun answered m)
  | hardReset => exact absurd rfl noAssert

end LedgerInversion

end Sys2Proof.Machine

namespace Sys2Proof.Proofs

open Sys2Proof.Machine

/-- Settles O12: no step but an acceptance and a hard reset moves the account of a master. -/
theorem everyRequestAnsweredOnce : Obligations.EveryRequestAnsweredOnce := by
  intro c s t noAssert h m
  rcases (exec_ledgerStep h).account noAssert m with stands | ⟨rq, rfl, idle, rfl⟩
  · obtain ⟨answers, none⟩ := State.answered_as_left stands
    exact ⟨answers, fun before after => absurd (none before) after⟩
  · refine ⟨?_, fun _ _ => ⟨rq, rfl⟩⟩
    rw [if_neg fun left => left.1 idle]
    rfl

/-- Settles O4: a command that does not complete is of one of the two shapes. -/
theorem wellFormedCommandsComplete : Obligations.WellFormedCommandsComplete := by
  refine ⟨fun c s formed => ?_, fun m rq s formed => ?_, fun code args s formed => ?_⟩
  · rcases exec_posts s c with ⟨t, next, -⟩ | ⟨illFormed, -⟩
    · exact ⟨t, next⟩
    · rw [formed] at illFormed
      cases illFormed
  · exact if_neg (by simp [formed])
  · exact if_neg (by simp [formed])

/-- Settles O14: by what `State.LedgerStep` allows each command. -/
theorem masterRecordsChangeOnlyByTheirCommands : Obligations.MasterRecordsChangeOnlyByTheirCommands := by
  intro c s t h noAssert noReset m
  cases exec_ledgerStep h with
  | kept same => exact ⟨fun _ _ _ => congrArg (Ledger.prio · m) same, fun _ _ => congrArg (Ledger.state · m) same⟩
  | accepted idle entered =>
    have handled := execUpstreamRequest_handled h
    exact ⟨fun _ _ _ => handled.prio m, fun _ _ => handled.mstate m⟩
  | setPriority prio set => exact ⟨fun other => absurd rfl (other _ _), fun _ _ => congrArg (Ledger.state · m) set⟩
  | headerCopy prio set => exact ⟨fun _ other => absurd rfl other, fun _ _ => congrArg (Ledger.state · m) set⟩
  | load prio set => exact ⟨fun _ _ other => absurd rfl other, fun _ _ => congrArg (Ledger.state · m) set⟩
  | drop state set => exact ⟨fun _ _ _ => congrArg (Ledger.prio · m) set, fun other => absurd rfl (other _)⟩
  | reopen state set => exact ⟨fun _ _ _ => congrArg (Ledger.prio · m) set, fun _ other => absurd rfl (other _)⟩
  | softReset => exact absurd rfl (noReset _)
  | hardReset => exact absurd rfl noAssert

/-- Settles O1, by the two shapes of the queue; a pending LOAD is no soft reset. -/
theorem stepRunsFrontCommand : Obligations.StepRunsFrontCommand := by
  refine ⟨fun c rest s front => ?_, fun s empty noReset => ?_⟩
  · unfold step
    rw [front]
  · unfold step State.idle
    rw [empty]
    dsimp only
    split
    · next p pending =>
      rw [noReset p pending]
    · rfl

/-- Settles O16: the two branches of the link's acceptance. -/
theorem requestAcceptedOrHeldOff : Obligations.RequestAcceptedOrHeldOff :=
  fun _ _ _ formed => ⟨execUpstreamRequest_accepted formed, execUpstreamRequest_heldOff formed⟩

end Sys2Proof.Proofs

namespace Sys2Proof.Machine

/-! ### The commands of masters and of the part, check by check -/

section PartCommands

variable {s u : State} {m : MasterNo} {b p : Byte}

/-! SET_PRIORITY (R122) -/

theorem ownSetPriority_badArg (h : b = 0 ∨ 16 ≤ b.toNat ∨ 4 ≤ p.toNat) : ownSetPriority b p u = refuse u .badArg := by
  unfold ownSetPriority
  split
  · rfl
  · next named =>
    refine if_neg fun low => ?_
    have unnamed : masterArg b = none := masterArg_bad (h.imp_right fun big => big.resolve_right (by omega))
    rw [unnamed] at named
    cases named

theorem ownSetPriority_accept (m0 : m ≠ 0) (q : BitVec 2) :
    ownSetPriority (BitVec.ofNat 8 m.val) (q.zeroExtend 8) u = accept (u.setMaster m { u.master m with prio := q }) := by
  have low : (q.zeroExtend 8).toNat ≤ 3 := by
    have := q.isLt
    simp
    omega
  have readBack : (q.zeroExtend 8).extractLsb' 0 2 = q := extract_zeroExtend q (by decide)
  rw [ownSetPriority, masterArg_val m m0]
  dsimp only
  rw [if_pos low, readBack]

/-! REOPEN_MASTER (R128) -/

theorem ownReopenMaster_badArg (h : b = 0 ∨ 16 ≤ b.toNat) : ownReopenMaster b u = refuse u .badArg := by
  rw [ownReopenMaster, masterArg_bad h]

theorem ownReopenMaster_badState (m0 : m ≠ 0)
    (h : u.part = .loading ∨ u.part = .reset ∨ (u.master m).state = .opened) :
    ownReopenMaster (BitVec.ofNat 8 m.val) u = refuse u .badState := by
  rw [ownReopenMaster, masterArg_val m m0]
  exact if_pos (by rwa [PartState.not_live_iff, or_assoc])

theorem ownReopenMaster_accept (m0 : m ≠ 0) (live : u.part = .running ∨ u.part = .halted)
    (fenced : (u.master m).state = .fenced) :
    ownReopenMaster (BitVec.ofNat 8 m.val) u = accept (u.setMaster m { u.master m with state := .opened }) := by
  rw [ownReopenMaster, masterArg_val m m0]
  exact if_neg (not_or.2 ⟨PartState.live_iff.2 live, by simp [fenced]⟩)

/-! DROP_MASTER (R125, R126, R146) -/

theorem ownDropMaster_badArg (h : b = 0 ∨ 16 ≤ b.toNat) : ownDropMaster b u = refuse u .badArg := by
  rw [ownDropMaster, masterArg_bad h]

theorem ownDropMaster_badState (m0 : m ≠ 0)
    (h : u.part = .loading ∨ u.part = .reset ∨ (u.master m).state = .fenced) :
    ownDropMaster (BitVec.ofNat 8 m.val) u = refuse u .badState := by
  rw [ownDropMaster, masterArg_val m m0]
  exact if_pos (by rwa [PartState.not_live_iff, or_assoc])

/-! The treatment of the outstanding request leaves the link's record alone -/

theorem State.answerEntries_setMl (x : MgmtLink) (reason : Reason) : ∀ (l : List ParkEntry) (u : State),
    (u.setMl x).answerEntries reason l = (u.answerEntries reason l).setMl x
  | [], _ => rfl
  | e :: l, u => by
    rw [State.answerEntries, State.answer_setMl, answerEntries_setMl x reason l]
    rfl

theorem State.releaseWithdrawn_setMl (u : State) (x : MgmtLink) (e : QueueEntry) :
    (u.setMl x).releaseWithdrawn e = (u.releaseWithdrawn e).setMl x := by
  unfold State.releaseWithdrawn
  split
  · exact State.wakeRequests_setMl (u.setLane _ _ _) x _
  · rfl
  · rfl
  · rfl

theorem State.withdraw_setMl (u : State) (x : MgmtLink) (m : MasterNo) :
    (u.setMl x).withdraw m = (u.withdraw m).setMl x := by
  have answered := State.answer_setMl (u.removeQueued m) x m (.fault .dropped)
  unfold State.withdraw
  dsimp only [State.setMl_dn, State.setMl_hand]
  split
  · exact (congrArg (State.releaseWithdrawn · _) answered).trans (State.releaseWithdrawn_setMl _ x _)
  · exact answered

theorem State.dropRequest_setMl (u : State) (x : MgmtLink) (m : MasterNo) :
    (u.setMl x).dropRequest m = (u.dropRequest m).setMl x := by
  unfold State.dropRequest
  rw [State.setMl_master]
  split
  · exact u.withdraw_setMl x m
  · exact State.answerEntries_setMl x .dropped _ (u.setHp _)
  · rfl
  · rfl
  · rfl
  · rfl

theorem ownDropMaster_accept (m0 : m ≠ 0) (live : s.part = .running ∨ s.part = .halted)
    (opened : (s.master m).state = .opened) :
    ownDropMaster (BitVec.ofNat 8 m.val) s.framed = accept (((s.fencedOff m).dropRequest m).setMl s.framed.ml) := by
  have enters : ¬((s.framed.part ≠ .running ∧ s.framed.part ≠ .halted) ∨ (s.framed.master m).state = .fenced) :=
    not_or.2 ⟨PartState.live_iff.2 live, fun fenced => nomatch opened.symm.trans fenced⟩
  rw [← State.dropRequest_setMl, ownDropMaster, masterArg_val m m0]
  exact if_neg enters

/-- A DROP_MASTER that is taken is the fence, the treatment of the outstanding request and ML's record of the command. -/
theorem exec_dropMaster_accepted (ready : s.linkReady) (m0 : m ≠ 0) (live : s.part = .running ∨ s.part = .halted)
    (opened : (s.master m).state = .opened) :
    exec (.dropMaster (BitVec.ofNat 8 m.val)) s =
      .next { (s.fencedOff m).dropRequest m with ml := s.linkAfter 0x0E .ok [] } :=
  shortCommand_accepted (u := ((s.fencedOff m).dropRequest m).setMl s.framed.ml) ready
    (ownDropMaster_accept m0 live opened) rfl

/-- The fence leaves the outstanding request to the treatment by its phase (R126). -/
theorem State.fencedOff_master (s : State) (m : MasterNo) :
    (s.fencedOff m).master m = { s.master m with state := .fenced } := Tbl.nth_put_self _ m _

/-- The fenced master is answered, from a state with the master table of the fence and nothing driven yet. -/
theorem State.answer_fencedOff {u : State} (a : Answer) (fenced : u.masters = (s.fencedOff m).masters) (quiet : u.out = [])
    (outstanding : (s.master m).outst ≠ .none) :
    u.answer m a =
      { u with
        masters := s.masters.put m { s.master m with state := .fenced, outst := .none }, out := [.answer m a] } := by
  have record : u.master m = { s.master m with state := .fenced } :=
    (congrArg (Tbl.nth · m) fenced).trans (s.fencedOff_master m)
  have replaced : (s.fencedOff m).masters = s.masters.put m { s.master m with state := .fenced } := rfl
  rw [State.answer_eq u m a (by rwa [record]), record, fenced, replaced, Tbl.put_put, quiet]
  rfl

theorem State.dropRequest_untouched
    (h : (u.master m).outst = .none ∨ (∃ rq, (u.master m).outst = .admitting rq) ∨
      (∃ rq, (u.master m).outst = .inFlight rq) ∨ ∃ rq k, (u.master m).outst = .laneHeld rq k) :
    u.dropRequest m = u := by
  unfold State.dropRequest
  rcases h with none | ⟨rq, admitting⟩ | ⟨rq, inFlight⟩ | ⟨rq, k, held⟩
  · rw [none]
  · rw [admitting]
  · rw [inFlight]
  · rw [held]

/-- The one entry of a parked master leaves the pool, and the master is answered (R126). -/
theorem State.dropRequest_parked {rq : Request} {e : ParkEntry} {pre post : List ParkEntry}
    (parked : (u.master m).outst = .parked rq) (hl : u.hp.list = pre ++ e :: post) (he : e.master = m)
    (others : ∀ x ∈ pre ++ post, x.master ≠ m) :
    u.dropRequest m = (u.setHp { u.hp with list := pre ++ post }).answer m (.fault .dropped) := by
  have taken : u.hp.list.filter (fun x => x.master == m) = [e] := by
    rw [hl, List.filter_append, List.filter_cons_of_pos (by simpa using he),
      List.filter_eq_nil_iff.2 fun x hx => by simpa using others x (List.mem_append_left _ hx),
      List.filter_eq_nil_iff.2 fun x hx => by simpa using others x (List.mem_append_right _ hx)]
    rfl
  have kept : u.hp.list.filter (fun x => !(x.master == m)) = pre ++ post := by
    rw [hl, List.filter_append, List.filter_cons_of_neg (by simpa using he),
      List.filter_eq_self.2 fun x hx => by simpa using others x (List.mem_append_left _ hx),
      List.filter_eq_self.2 fun x hx => by simpa using others x (List.mem_append_right _ hx)]
  unfold State.dropRequest
  rw [parked]
  dsimp only
  rw [State.cancelEntries, taken, kept]
  subst he
  rfl

theorem State.fencedOff_dropRequest_parked {rq : Request} {e : ParkEntry} {pre post : List ParkEntry}
    (parked : (s.master m).outst = .parked rq) (hl : s.hp.list = pre ++ e :: post) (he : e.master = m)
    (others : ∀ x ∈ pre ++ post, x.master ≠ m) :
    (s.fencedOff m).dropRequest m =
      { s.fencedOff m with
        masters := s.masters.put m { s.master m with state := .fenced, outst := .none },
        hp := { s.hp with list := pre ++ post }, out := [.answer m (.fault .dropped)] } := by
  have phase : ((s.fencedOff m).master m).outst = .parked rq := by rw [State.fencedOff_master, parked]
  exact (State.dropRequest_parked phase hl he others).trans
    (State.answer_fencedOff _ rfl rfl (by simp [parked]))

/-- The one piece of queued work of a master is withdrawn, and the master is answered (R126, R146). -/
theorem State.dropRequest_queued {rq : Request} {e : QueueEntry} (queued : (u.master m).outst = .queued rq)
    (he : (u.dn.queue ++ u.hand.joins).filter (fun x => x.source == .master m) = [e]) :
    u.dropRequest m = ((u.removeQueued m).answer m (.fault .dropped)).releaseWithdrawn e := by
  have found : (u.dn.queue ++ u.hand.joins).find? (QueueEntry.ofMaster m) = some e := by
    rw [← List.head?_filter]
    exact congrArg List.head? he
  unfold State.dropRequest
  rw [queued]
  dsimp only
  unfold State.withdraw
  rw [found]

/-- `s` when the drop of master `m` has withdrawn its queued request, wherever it waits, and has answered it (R126, R146; log 6). -/
def State.droppedQueued (s : State) (m : MasterNo) : State :=
  { s.fencedOff m with
    masters := s.masters.put m { s.master m with state := .fenced, outst := .none },
    dn := { s.dn with queue := s.dn.queue.filter fun x => x.source != .master m },
    hand := { (s.fencedOff m).hand with joins := s.hand.joins.filter fun x => x.source != .master m },
    out := [.answer m (.fault .dropped)] }

theorem State.fencedOff_dropRequest_queued {rq : Request} {e : QueueEntry} (queued : (s.master m).outst = .queued rq)
    (he : (s.dn.queue ++ s.hand.joins).filter (fun x => x.source == .master m) = [e]) :
    (s.fencedOff m).dropRequest m = (s.droppedQueued m).releaseWithdrawn e := by
  have phase : ((s.fencedOff m).master m).outst = .queued rq := by rw [State.fencedOff_master, queued]
  have answered : ((s.fencedOff m).removeQueued m).answer m (.fault .dropped) = s.droppedQueued m :=
    State.answer_fencedOff _ rfl rfl (by simp [queued])
  rw [← answered]
  exact State.dropRequest_queued phase he

theorem State.releaseWithdrawn_pass {e : QueueEntry} {v : Option WindowNo} (h : e.purpose = .pass v) :
    u.releaseWithdrawn e = u := by
  unfold State.releaseWithdrawn
  rw [h]

/-- The lane of a withdrawn ring access is FREE, with the wake requests (R46, R146). -/
theorem State.releaseWithdrawn_ring {e : QueueEntry} {r : RingNo} {side : Side} {v : WindowNo} {q : MasterNo} {d : Bool}
    (h : e.purpose = .ring r side v) (busy : (u.ring r).lane side = .busy q d) :
    u.releaseWithdrawn e = (u.laneFreed r side).wakeRequests r := by
  unfold State.releaseWithdrawn
  rw [h]
  dsimp only
  rw [busy]
  rfl

/-! STOP, START and LOAD (R184, R183, R181) -/

theorem ownStop_badState (h : u.part ≠ .running) : ownStop u = refuse u .badState := if_pos h

theorem ownStop_accept (h : u.part = .running) :
    ownStop u = accept (({ u with part := .halted }).setHand
      { u.hand with stopRings := true, stopPool := true, stopCells := true, cadStop := u.departures }) :=
  if_neg (not_not.2 h)

theorem State.departures_nth (s : State) (r : RingNo) :
    s.departures.nth r = (s.hand.cadStop.nth r || decide ((s.ring r).state = .running)) := by
  rw [State.departures, Tbl.nth_tabulate, beq_eq_decide]

theorem ownStart_badState (h : u.part ≠ .halted ∨ u.tl.valid = false) : ownStart u = refuse u .badState := if_pos h

theorem ownStart_accept (h : u.part = .halted) (hv : u.tl.valid = true) :
    ownStart u = accept (({ u with part := .running }).setHand { u.hand with runRings := true, runNotices := true }) :=
  if_neg (by simp [h, hv])

variable {a : Word} {frame : Byte}

theorem ownLoad_badArg (h : a.toNat % 64 ≠ 0 ∨ 2 ^ 32 < a.toNat + 832) : ownLoad a frame u = refuse u .badArg := if_pos h

theorem ownLoad_badState (aligned : a.toNat % 64 = 0) (fits : a.toNat + 832 ≤ 2 ^ 32) (h : u.part ≠ .halted) :
    ownLoad a frame u = refuse u .badState := by
  rw [ownLoad, if_neg (by omega), if_pos h]

theorem ownLoad_accept (aligned : a.toNat % 64 = 0) (fits : a.toNat + 832 ≤ 2 ^ 32) (h : u.part = .halted) :
    ownLoad a frame u = (accept (u.beginLoad .command a)).pend .load frame := by
  rw [ownLoad, if_neg (by omega), if_neg (not_not.2 h)]

/-- A LOAD that is taken begins its load and is pending (R190). -/
theorem State.exec_load_accepted (ready : s.linkReady) (aligned : a.toNat % 64 = 0) (fits : a.toNat + 832 ≤ 2 ^ 32)
    (halted : s.part = .halted) :
    exec (.load a) s =
      .next
        { s.quiet.beginLoad .command a with
          ml :=
            { response := some { code := 0x17, frame := s.ml.frame, status := .pending, refusal := false, data := [] },
              long := some { command := .load, frame := s.ml.frame }, frame := nextFrame s.ml.frame } } := by
  have taken : ownLoad a s.ml.frame s.framed = (accept (s.framed.beginLoad .command a)).pend .load s.ml.frame :=
    ownLoad_accept aligned fits halted
  refine congrArg Host.Outcome.next ((State.takeCommand_ready ready _ _).trans ?_)
  rw [taken]
  rfl

theorem tableRead_first (a : Word) :
    tableRead a 0 =
      { source := .tableLoader, purpose := .table, dir := .read, addr := a, len := 64, data := [] } := by
  simp [tableRead]

end PartCommands

end Sys2Proof.Machine

namespace Sys2Proof.Proofs

open Sys2Proof.Machine

/-- Settles O60: the refusals of each command in order, and its acceptance; a drop by the phase of the outstanding request. -/
theorem masterAndPartCommands : Obligations.MasterAndPartCommands := by
  intro s ready
  refine ⟨fun b p bad => shortCommand_refused ready (ownSetPriority_badArg bad),
    fun b bad => ⟨shortCommand_refused ready (ownDropMaster_badArg bad),
      shortCommand_refused ready (ownReopenMaster_badArg bad)⟩,
    fun m m0 => ⟨fun p => shortCommand_accepted ready (ownSetPriority_accept m0 p) rfl,
      fun bad => shortCommand_refused ready (ownDropMaster_badState m0 bad),
      fun bad => shortCommand_refused ready (ownReopenMaster_badState m0 bad),
      fun live fenced => shortCommand_accepted ready (ownReopenMaster_accept m0 live fenced) rfl,
      fun live opened => ?_⟩,
    fun idle => shortCommand_refused ready (ownStop_badState idle),
    fun running => ⟨_, shortCommand_accepted ready (ownStop_accept running) rfl, rfl, s.departures_nth⟩,
    fun bad => shortCommand_refused ready (ownStart_badState bad),
    fun halted valid => shortCommand_accepted ready (ownStart_accept halted valid) rfl,
    fun a => ⟨fun bad => congrArg _ (State.takeCommand_refused ready _ _ _ (ownLoad_badArg bad)),
      fun aligned fits =>
        ⟨fun busy => congrArg _ (State.takeCommand_refused ready _ _ _ (ownLoad_badState aligned fits busy)),
          fun halted => ?_⟩⟩⟩
  · rw [exec_dropMaster_accepted ready m0 live opened]
    refine ⟨fun untouched => ?_, fun rq e pre post parked hl he others => ?_, fun rq e queued he => ?_⟩
    · rw [State.dropRequest_untouched (by rwa [State.fencedOff_master])]
    · rw [State.fencedOff_dropRequest_parked parked hl he others]
    · rw [State.fencedOff_dropRequest_queued queued he]
      refine ⟨s.droppedQueued m, rfl, fun ⟨v, pass⟩ => ?_, fun r side v q d ring busy => ⟨_, rfl, ?_⟩⟩
      · rw [State.releaseWithdrawn_pass pass]
      · rw [State.releaseWithdrawn_ring (u := s.droppedQueued m) ring busy]
        rfl
  · rw [State.exec_load_accepted ready aligned fits halted, State.beginLoad, tableRead_first]
    rfl

end Sys2Proof.Proofs

namespace Sys2Proof.Machine

/-! ### The downstream port's own events (Section 7) -/

section DownstreamEvents

variable {s : State} {f : InFlight} {e : QueueEntry} {data : List Byte} {tag : BitVec 4} {left : BitVec 16}

/-- DN takes the oldest work that the source has handed over (R136). -/
theorem State.exec_queueJoin {src : Source} {pre post : List QueueEntry} (handed : s.hand.joins = pre ++ e :: post)
    (own : e.source = src) (others : ∀ x ∈ pre, x.source ≠ src) :
    exec (.queueJoin src) s = .next ({ s.quiet with hand := { s.hand with joins := pre ++ post } }.join e) := by
  have takes : (e.source == src) = true := beq_iff_eq.2 own
  have passes : ∀ x ∈ pre, (x.source == src) = false := fun x hx => beq_eq_false_iff_ne.2 (others x hx)
  simp only [exec, execQueueJoin, find?_of_split handed takes passes, eraseP_of_split handed takes passes]
  rfl

/-! Responses: what the tag decides (R139, R149) -/

/-- What a response makes of the part: with the in-flight tag it is taken for the request in flight, with the settling tag it ends
SETTLING, and otherwise it is discarded. -/
def State.afterResponse (s : State) (tag : BitVec 4) (taken : InFlight → State) : State :=
  match s.dn.link with
  | .issued f => if tag = f.tag then taken f else s.quiet
  | .settling t _ => if tag = t then { s.quiet with dn := { s.dn with link := .idle } }.arbitrate else s.quiet
  | .idle => s.quiet

/-- A RETRY that is taken for the request in flight: presented again within the budget, a FAULT beyond it (R141). -/
def State.retried (s : State) (f : InFlight) : State :=
  if f.retries.toNat < s.header.retryBudget.toNat then
    { s with
      dn := { s.dn with link := .issued { f with retries := f.retries + 1, timer := s.header.respLimit } },
      out := [.present f.tag f.entry.dir f.entry.addr f.entry.len f.entry.data] }
  else (s.flightEnded f.entry .fault).arbitrate

theorem State.exec_downstreamDone (s : State) (tag : BitVec 4) (data : List Byte) :
    exec (.downstreamDone tag data) s = .next (s.afterResponse tag fun f => s.begin.doneFlight f.entry data) := by
  simp only [exec, execDownstreamDone, State.afterResponse]
  cases s.dn.link with
  | idle => rfl
  | issued f => exact (apply_ite Host.Outcome.next ..).symm
  | settling t left => exact (apply_ite Host.Outcome.next ..).symm

theorem State.exec_downstreamRetry (s : State) (tag : BitVec 4) :
    exec (.downstreamRetry tag) s = .next (s.afterResponse tag s.retried) := by
  simp only [exec, execDownstreamRetry, State.afterResponse]
  cases s.dn.link with
  | idle => rfl
  | issued f =>
    simp only [State.retried, State.endFlight_eq, apply_ite Host.Outcome.next]
    rfl
  | settling t left => exact (apply_ite Host.Outcome.next ..).symm

theorem State.exec_downstreamFault (s : State) (tag : BitVec 4) :
    exec (.downstreamFault tag) s =
      .next (s.afterResponse tag fun f => (s.flightEnded f.entry .fault).arbitrate) := by
  simp only [exec, execDownstreamFault, State.afterResponse]
  cases s.dn.link with
  | idle => rfl
  | issued f =>
    simp only [State.endFlight_eq, apply_ite Host.Outcome.next]
    rfl
  | settling t left => exact (apply_ite Host.Outcome.next ..).symm

variable {taken : InFlight → State}

theorem State.afterResponse_inFlight (h : s.dn.link = .issued f) : s.afterResponse f.tag taken = taken f := by
  simp only [State.afterResponse, h, if_true]

theorem State.afterResponse_settling (h : s.dn.link = .settling tag left) :
    s.afterResponse tag taken = { s.quiet with dn := { s.dn with link := .idle } }.arbitrate := by
  simp only [State.afterResponse, h, if_true]

theorem State.afterResponse_discarded
    (h : s.dn.link = .idle ∨ (∃ f, s.dn.link = .issued f ∧ f.tag ≠ tag) ∨
      ∃ t left, s.dn.link = .settling t left ∧ t ≠ tag) :
    s.afterResponse tag taken = s.quiet := by
  unfold State.afterResponse
  obtain idle | ⟨f, issued, other⟩ | ⟨t, left, settling, other⟩ := h
  · rw [idle]
  · rw [issued]
    exact if_neg other.symm
  · rw [settling]
    exact if_neg other.symm

/-! A response or a timer that ends the request in flight (R140, R141, R143) -/

theorem State.doneFlight_write (h : e.dir = .write) :
    s.begin.doneFlight e data = (s.flightEnded e (.done [])).arbitrate := by
  simp only [State.doneFlight, h, State.endFlight_eq]

theorem State.doneFlight_read (h : e.dir = .read) (len : data.length = e.len) :
    s.begin.doneFlight e data = (s.flightEnded e (.done data)).arbitrate := by
  simp only [State.doneFlight, h, if_pos len, State.endFlight_eq]

/-- Data of another length is replaced by free bytes of the length asked for (log 38). -/
theorem State.doneFlight_otherLength (h : e.dir = .read) (len : data.length ≠ e.len) :
    ∃ bytes : List Byte, bytes.length = e.len ∧
      s.begin.doneFlight e data = ({ s with free := s.free + 1 }.flightEnded e (.done bytes)).arbitrate := by
  refine ⟨(List.range e.len).map s.begin.holeByte, by simp, ?_⟩
  simp only [State.doneFlight, h, if_neg len]
  exact State.endFlight_eq { s with free := s.free + 1 } e _

theorem State.retried_within (h : f.retries.toNat < s.header.retryBudget.toNat) :
    s.retried f =
      { s with
        dn := { s.dn with link := .issued { f with retries := f.retries + 1, timer := s.header.respLimit } },
        out := [.present f.tag f.entry.dir f.entry.addr f.entry.len f.entry.data] } := if_pos h

theorem State.retried_beyond (h : s.header.retryBudget.toNat ≤ f.retries.toNat) :
    s.retried f = (s.flightEnded f.entry .fault).arbitrate := if_neg (Nat.not_lt.2 h)

theorem State.exec_responseTimeout (h : s.dn.link = .issued f) (due : f.timer = 0) :
    exec .responseTimeout s = .next (s.flightEnded f.entry .timeout).arbitrate := by
  simp only [exec, execResponseTimeout, h, if_pos due, State.endFlight_eq]

theorem State.exec_settlingEnd (h : s.dn.link = .settling tag 0) :
    exec .settlingEnd s = .next { s.quiet with dn := { s.dn with link := .idle } }.arbitrate := by
  simp only [exec, execSettlingEnd, h, if_true]
  rfl

end DownstreamEvents

end Sys2Proof.Machine

namespace Sys2Proof.Proofs

open Sys2Proof.Machine

/-- Settles O32: the arbiter's choice is the first entry of the queue's highest priority. -/
theorem arbiterIssuesHighestThenEarliest : Obligations.ArbiterIssuesHighestThenEarliest := by
  intro s
  refine ⟨fun stays => ?_, s.arbitrate_spec⟩
  obtain busy | empty := stays
  · exact s.arbitrate_busy busy
  · exact s.arbitrate_empty empty

/-- Settles O31: the entry handed over joins an IDLE link, or a link that is not. -/
theorem joiningWorkIssuedOrQueued : Obligations.JoiningWorkIssuedOrQueued := by
  intro src e pre post s handed own others
  rw [State.exec_queueJoin handed own others]
  exact ⟨fun idle => congrArg Host.Outcome.next (State.join_idle _ e idle),
    fun busy => congrArg Host.Outcome.next (State.join_busy _ e busy)⟩

/-- Settles O33: a response with the in-flight tag is taken, and each ends the request in its own way but a RETRY within the
budget. -/
theorem responsesEndOrReissueTheRequest : Obligations.ResponsesEndOrReissueTheRequest := by
  intro f s flight
  simp only [State.exec_downstreamDone, State.exec_downstreamRetry, State.exec_downstreamFault,
    State.afterResponse_inFlight flight]
  refine ⟨fun data write => ?_, fun data read len => ?_, fun data read len => ?_, trivial, fun beyond => ?_,
    State.exec_responseTimeout flight, fun within => ?_⟩
  · rw [State.doneFlight_write write]
  · rw [State.doneFlight_read read len]
  · obtain ⟨bytes, length, ended⟩ := State.doneFlight_otherLength (s := s) read len
    exact ⟨bytes, length, congrArg Host.Outcome.next ended⟩
  · rw [State.retried_beyond beyond]
  · rw [State.retried_within within]

/-- Settles O34: the tag alone decides, whichever response it is. -/
theorem otherResponsesDiscarded : Obligations.OtherResponsesDiscarded := by
  intro tag data s
  simp only [State.exec_downstreamDone, State.exec_downstreamRetry, State.exec_downstreamFault]
  refine ⟨fun other => ?_, fun left settling => ?_, State.exec_settlingEnd⟩
  · simp only [State.afterResponse_discarded other, and_self]
  · simp only [State.afterResponse_settling settling, and_self]

end Sys2Proof.Proofs

namespace Sys2Proof.Machine

/-! ### The notice writer's events and commands, case by case (Section 8) -/

section NoticeEvents

variable {s u : State} {x : NoticeResult} {rec : NoticeRecord} {n : Notice} {i : Nat}

/-! The result of a notice write (R160 to R162) -/

/-- The mark is what RT found, and otherwise that of the BUSY lane (log 16). -/
theorem State.noticeDetached_eq {d : Bool}
    (h : x.detached = some d ∨ x.detached = none ∧ ∃ q, (s.ring x.ring).producer = .busy q d) :
    s.noticeDetached x = d := by
  unfold State.noticeDetached
  rcases h with found | ⟨untaken, q, lane⟩
  · rw [found]
  · rw [untaken, lane]
    rfl

theorem State.noticeResult_delivered {data : List Byte} (done : x.ending = .done data)
    (attached : s.noticeDetached x = false) :
    s.noticeResult x rec = (s.setNw { s.nw with writer := .idle }).nwEvaluate := by
  rw [State.noticeResult, done, attached]
  rfl

theorem State.noticeResult_putBack {data : List Byte} (done : x.ending = .done data)
    (detached : s.noticeDetached x = true) :
    s.noticeResult x rec = (s.setNw { s.nw with queue := rec :: s.nw.queue, writer := .idle }).nwEvaluate := by
  rw [State.noticeResult, done, detached]
  rfl

theorem State.noticeResult_failed (h : x.ending = .fault ∨ x.ending = .timeout) :
    s.noticeResult x rec = s.setNw { s.nw with queue := rec :: s.nw.queue, writer := .stalled } := by
  rcases h with failed | failed <;> rw [State.noticeResult, failed] <;> rfl

/-- NW takes the result of the record in flight (R145). -/
theorem exec_noticeWriteResult (result : s.hand.nwResult = some x) (writing : s.nw.writer = .writing rec) :
    exec .noticeWriteResult s =
      .next ({ s.quiet with hand := { s.hand with nwResult := none } }.noticeResult x rec) := by
  simp only [exec, execNoticeWriteResult, result, writing]
  rfl

/-! Notices created (R155 to R158) -/

theorem State.createNotice_queued (room : s.nw.filled < 8) :
    s.createNotice n =
      (s.setNw
        { s.nw with
          seq := s.nw.seq + 1,
          queue := s.nw.queue ++ [{ notice := n, seq := s.nw.seq, stamp := s.timestamp, lost := 0 }] }).nwEvaluate :=
  if_pos room

theorem State.createNotice_lost (full : 8 ≤ s.nw.filled) :
    s.createNotice n =
      s.setNw
        { s.nw with seq := s.nw.seq + 1, lost := if s.nw.lost = 65535 then 65535 else s.nw.lost + 1 } :=
  if_neg (Nat.not_lt.2 full)

theorem exec_noticeHandoff_masked (handed : s.hand.notices[i]? = some n) (off : maskEnables s.nw.mask n.kind = false) :
    exec (.noticeHandoff i) s = .next { s.quiet with hand := { s.hand with notices := s.hand.notices.eraseIdx i } } := by
  simp only [exec, execNoticeHandoff, handed, off]
  rfl

theorem exec_noticeHandoff_enabled (handed : s.hand.notices[i]? = some n) (on : maskEnables s.nw.mask n.kind = true) :
    exec (.noticeHandoff i) s =
      .next ({ s.quiet with hand := { s.hand with notices := s.hand.notices.eraseIdx i } }.createNotice n) := by
  simp only [exec, execNoticeHandoff, handed, on]
  rfl

/-! The notice commands (R163, R165, R166) -/

theorem ownTakeNotice_head {rest : List NoticeRecord} (h : u.nw.queue = rec :: rest) :
    ownTakeNotice u =
      { status := .ok, data := recordBytes { rec with lost := u.nw.lost },
        state := u.setNw { u.nw with queue := rest } } := by
  rw [ownTakeNotice, h]

theorem ownTakeNotice_empty (h : u.nw.queue = []) : ownTakeNotice u = accept u := by rw [ownTakeNotice, h]

theorem ownSetMask_accept (mask : BitVec 7) :
    ownSetMask (mask.zeroExtend 8) u = accept (u.setNw { u.nw with mask := mask }) := by
  have top : (mask.zeroExtend 8).getLsbD 7 = false := by simp
  have readBack : (mask.zeroExtend 8).extractLsb' 0 7 = mask := extract_zeroExtend mask (by decide)
  rw [ownSetMask, top, readBack]
  rfl

/-- Bit 7 of a mask must hold 0 (R205; log 28). -/
theorem ownSetMask_badArg {b : Byte} (h : 128 ≤ b.toNat) : ownSetMask b u = refuse u .badArg := by
  have top : b.getLsbD 7 = true := by
    have : b.msb = true := BitVec.msb_eq_true_iff_two_mul_ge.2 (by omega)
    rwa [BitVec.msb_eq_getLsbD_last] at this
  exact if_pos top

theorem ownClearStall_accept (h : u.nw.writer = .stalled) :
    ownClearStall u = accept (u.setNw { u.nw with writer := .idle }).nwEvaluate := by
  rw [ownClearStall, h]

theorem ownClearStall_badState (h : u.nw.writer ≠ .stalled) : ownClearStall u = refuse u .badState := by
  unfold ownClearStall
  split
  · next stalled => exact absurd stalled h
  · rfl
  · rfl

/-- A CLEAR_STALL that is taken lets NW issue, which leaves ML alone (R163). -/
theorem exec_clearStall_accepted (ready : s.linkReady) (stalled : s.nw.writer = .stalled) :
    exec .clearStall s =
      .next { s.responded 0x13 .ok [] with nw := { s.nw with writer := .idle } }.nwEvaluate := by
  have leavesMl := State.nwEvaluate_setMl (s.quiet.setNw { s.nw with writer := .idle })
  have cleared := (ownClearStall_accept (u := s.framed) stalled).trans (congrArg accept (leavesMl s.framed.ml))
  exact (shortCommand_accepted ready cleared rfl).trans
    (congrArg Host.Outcome.next (leavesMl (s.linkAfter 0x13 .ok [])).symm)

end NoticeEvents

end Sys2Proof.Machine

namespace Sys2Proof.Proofs

open Sys2Proof.Machine

/-- Settles O41: the outcome of the write, and for a DONE the mark of its lane. -/
theorem noticeWriteResults : Obligations.NoticeWriteResults := by
  intro x rec s result writing
  rw [exec_noticeWriteResult result writing]
  refine ⟨fun data done lane => ?_, fun data done lane => ?_, fun failed => ?_⟩
  · exact congrArg _ (State.noticeResult_delivered done (State.noticeDetached_eq lane))
  · exact congrArg _ (State.noticeResult_putBack done (State.noticeDetached_eq lane))
  · exact congrArg _ (State.noticeResult_failed failed)

/-- Settles O42: the mask decides whether a notice is created, and the places taken whether it is queued. -/
theorem noticesCreatedMaskedOrLost : Obligations.NoticesCreatedMaskedOrLost := by
  intro i n s handed
  refine ⟨fun off => exec_noticeHandoff_masked handed off, fun on room => ?_, fun on full => ?_⟩
  · exact (exec_noticeHandoff_enabled handed on).trans (congrArg _ (State.createNotice_queued room))
  · exact (exec_noticeHandoff_enabled handed on).trans (congrArg _ (State.createNotice_lost full))

/-- Settles O43: what each owner answers, carried through the link. -/
theorem noticeCommands : Obligations.NoticeCommands := by
  intro s ready
  refine ⟨fun rec rest queue => ⟨?_, recordBytes_length _⟩,
    fun empty => shortCommand_accepted ready (ownTakeNotice_empty empty) rfl,
    fun mask => shortCommand_accepted ready (ownSetMask_accept mask) rfl,
    fun b big => shortCommand_refused ready (ownSetMask_badArg big),
    shortCommand_accepted (owner := ownClearLost) ready rfl rfl,
    exec_clearStall_accepted ready,
    fun other => shortCommand_refused ready (ownClearStall_badState other)⟩
  exact congrArg Host.Outcome.next (State.takeCommand_state ready _ _ _ _ _ (ownTakeNotice_head queue) rfl)

end Sys2Proof.Proofs

namespace Sys2Proof.Machine

/-! ### What the laws of the two queues speak of

`State.queues` keeps of a state the downstream port and the number of notice places taken (R157, R136). Most operations leave both as they
are; `Queues.Step` says of the others that they keep each law. -/

structure Queues where
  dn : Downstream
  filled : Nat

def State.queues (s : State) : Queues := { dn := s.dn, filled := s.nw.filled }

/-- The law of the notice queue and the law of the issue queue are each kept from `x` to `y` (R157, R136). -/
structure Queues.Step (x y : Queues) : Prop where
  notice : x.filled ≤ 8 → y.filled ≤ 8
  link : (x.dn.link = .idle → x.dn.queue = []) → y.dn.link = .idle → y.dn.queue = []

/-- A step between the queues of two states is the keeping of both laws. -/
theorem State.queues_step_iff (s t : State) :
    s.queues.Step t.queues ↔ (s.noticeLaw → t.noticeLaw) ∧ (s.linkLaw → t.linkLaw) :=
  ⟨fun h => ⟨h.notice, h.link⟩, fun h => ⟨h.1, h.2⟩⟩

section QueueOps

variable {s t u : State} {x y z : Queues}

theorem Queues.Step.refl (x : Queues) : x.Step x := ⟨id, id⟩

theorem Queues.Step.trans (h : x.Step y) (k : y.Step z) : x.Step z := ⟨k.notice ∘ h.notice, k.link ∘ h.link⟩

theorem Queues.Step.of_eq (h : y = x) : x.Step y := h ▸ .refl x

/-- What the handling of requests, results, wakes and notices leaves alone holds both queues. -/
theorem State.Handled.queues (h : s.Handled t) : t.queues = s.queues := by
  unfold State.queues
  rw [h.dn, h.filled]

theorem Queues.Step.of_empty (filled : y.filled = 0) (queue : y.dn.queue = []) : x.Step y :=
  ⟨fun _ => filled ▸ Nat.zero_le 8, fun _ _ => queue⟩

/-! The downstream port -/

theorem Queues.Step.of_link (notice : y.filled = x.filled) (link : y.dn.link = .idle → y.dn.queue = []) : x.Step y :=
  ⟨fun h => notice ▸ h, fun _ => link⟩

/-- Whatever the link was before, the arbiter leaves it IDLE only with an empty queue (R137). -/
theorem State.arbitrate_step (h : u.nw = s.nw) : s.queues.Step u.arbitrate.queues := by
  have filled : u.nw.filled = s.nw.filled := congrArg NoticeWriter.filled h
  by_cases hidle : u.dn.link = .idle
  · by_cases hq : u.dn.queue = []
    · rw [State.arbitrate_empty u hq]
      exact .of_link filled fun _ => hq
    · obtain ⟨pre, e, post, -, -, -, issued⟩ := u.arbitrate_spec hidle hq
      rw [issued]
      exact .of_link filled fun idle => nomatch idle
  · rw [State.arbitrate_busy u hidle]
    exact .of_link filled fun idle => absurd idle hidle

theorem State.join_step (s : State) (e : QueueEntry) : s.queues.Step (s.join e).queues := by
  by_cases hidle : s.dn.link = .idle
  · rw [State.join_idle s e hidle]
    exact .of_link rfl fun idle => nomatch idle
  · rw [State.join_busy s e hidle]
    exact .of_link rfl fun idle => absurd idle hidle

theorem State.doneFlight_step (s : State) (e : QueueEntry) (data : List Byte) :
    s.queues.Step (s.doneFlight e data).queues := by
  unfold State.doneFlight
  split
  · exact State.arbitrate_step rfl
  · split
    · exact State.arbitrate_step rfl
    · exact State.arbitrate_step rfl

theorem State.retried_step (s : State) (f : InFlight) : s.queues.Step (s.retried f).queues := by
  unfold State.retried
  split
  · exact .of_link rfl fun idle => nomatch idle
  · exact State.arbitrate_step rfl

theorem State.afterResponse_step {tag : BitVec 4} {taken : InFlight → State}
    (h : ∀ f, s.queues.Step (taken f).queues) : s.queues.Step (s.afterResponse tag taken).queues := by
  unfold State.afterResponse
  split
  · split
    · exact h _
    · exact .refl _
  · split
    · exact State.arbitrate_step rfl
    · exact .refl _
  · exact .refl _

/-- A tick leaves an IDLE link IDLE and any other not. -/
theorem Link.tick_idle (l : Link) : l.tick = .idle ↔ l = .idle := by cases l <;> simp [Link.tick]

/-- What leaves the queue leaves an empty one empty (R146). -/
theorem State.removeQueued_step (s : State) (m : MasterNo) : s.queues.Step (s.removeQueued m).queues :=
  ⟨id, fun law idle => by
    have empty : s.dn.queue = [] := law idle
    simp [State.queues, State.removeQueued, empty]⟩

/-! The notice writer -/

theorem State.setNw_step {n : NoticeWriter} (h : s.nw.filled ≤ 8 → n.filled ≤ 8) : s.queues.Step (s.setNw n).queues :=
  ⟨h, id⟩

theorem State.nwEvaluate_queues (s : State) : s.nwEvaluate.queues = s.queues := (State.Handled.refl s).nwEvaluate.queues

/-- A record joins only where a place is free (R157). -/
theorem State.createNotice_step (s : State) (n : Notice) : s.queues.Step (s.createNotice n).queues := by
  by_cases room : s.nw.filled < 8
  · rw [State.createNotice_queued room, State.nwEvaluate_queues]
    refine State.setNw_step fun _ => ?_
    simp only [NoticeWriter.filled, List.length_append, List.length_singleton] at room ⊢
    omega
  · rw [State.createNotice_lost (Nat.not_lt.1 room)]
    exact State.setNw_step id

/-- The record in flight leaves the part or goes back to the queue, where it takes the place it had (R160 to R162). -/
theorem State.noticeResult_step {r : NoticeResult} {sent : NoticeRecord} (writing : s.nw.writer = .writing sent) :
    s.queues.Step (s.noticeResult r sent).queues := by
  have taken : s.nw.queue.length + 1 ≤ s.nw.filled := by rw [NoticeWriter.filled, writing]
  unfold State.noticeResult
  split
  · split
    · rw [State.nwEvaluate_queues]
      exact State.setNw_step taken.trans
    · rw [State.nwEvaluate_queues]
      exact State.setNw_step fun law => Nat.le_of_succ_le (taken.trans law)
  · exact State.setNw_step taken.trans

/-! The part's follow-on events and the table loader -/

theorem State.completeLoad_queues (s : State) : s.completeLoad.queues = s.queues := by
  rw [State.completeLoad_eq]
  rfl

theorem State.finishLoad_queues (s : State) (l : Load) (staging : List Byte) :
    (s.finishLoad l staging).queues = s.queues := by
  unfold State.finishLoad
  split
  · exact State.completeLoad_queues _
  · rw [State.completeLoad_queues]
    cases l.origin <;> rfl

theorem State.tableReadDone_queues (s : State) (l : Load) (data : List Byte) :
    (s.tableReadDone l data).queues = s.queues := by
  unfold State.tableReadDone
  split
  · rfl
  · exact s.finishLoad_queues _ _

theorem State.endReset_queues (s : State) (cause : ResetCause) : (s.endReset cause).queues = s.queues := by
  unfold State.endReset
  dsimp only
  split <;> rfl

theorem State.idle_queues (s : State) : s.idle.queues = s.queues := by
  unfold State.idle
  split
  · split
    · exact s.begin.endReset_queues .command
    · rfl
  · rfl

end QueueOps

end Sys2Proof.Machine

namespace Sys2Proof.Machine

/-! ### Every command keeps both queue laws -/

section QueueCommands

variable {s t : State} {r : RingNo}

/-! The blocks' own events -/

theorem execQueueJoin_step {src : Source} (h : execQueueJoin src s = .next t) : s.queues.Step t.queues := by
  unfold execQueueJoin at h
  dsimp only at h
  split at h <;> cases h
  · exact State.join_step (s.begin.setHand _) _
  · exact .refl _

theorem exec_downstreamDone_step {tag : BitVec 4} {data : List Byte} (h : exec (.downstreamDone tag data) s = .next t) :
    s.queues.Step t.queues := by
  cases (State.exec_downstreamDone s tag data).symm.trans h
  exact State.afterResponse_step fun f => s.begin.doneFlight_step f.entry data

theorem exec_downstreamRetry_step {tag : BitVec 4} (h : exec (.downstreamRetry tag) s = .next t) :
    s.queues.Step t.queues := by
  cases (State.exec_downstreamRetry s tag).symm.trans h
  exact State.afterResponse_step s.retried_step

theorem exec_downstreamFault_step {tag : BitVec 4} (h : exec (.downstreamFault tag) s = .next t) :
    s.queues.Step t.queues := by
  cases (State.exec_downstreamFault s tag).symm.trans h
  exact State.afterResponse_step fun f => State.arbitrate_step rfl

theorem execResponseTimeout_step (h : execResponseTimeout s = .next t) : s.queues.Step t.queues := by
  unfold execResponseTimeout at h
  split at h
  · split at h <;> cases h
    · exact State.arbitrate_step rfl
    · exact .refl _
  · cases h
    exact .refl _
  · cases h
    exact .refl _

theorem execSettlingEnd_step (h : execSettlingEnd s = .next t) : s.queues.Step t.queues := by
  unfold execSettlingEnd at h
  split at h
  · split at h <;> cases h
    · exact State.arbitrate_step rfl
    · exact .refl _
  · cases h
    exact .refl _
  · cases h
    exact .refl _

theorem execNoticeWriteResult_step (h : execNoticeWriteResult s = .next t) : s.queues.Step t.queues := by
  unfold execNoticeWriteResult at h
  split at h <;> cases h
  · next x sent _ writing => exact State.noticeResult_step (s := s.begin.setHand { s.hand with nwResult := none }) writing
  · exact .refl _

theorem execNoticeHandoff_step {i : Nat} (h : execNoticeHandoff i s = .next t) : s.queues.Step t.queues := by
  unfold execNoticeHandoff at h
  split at h
  · dsimp only at h
    split at h <;> cases h
    · exact State.createNotice_step (s.begin.setHand _) _
    · exact .refl _
  · cases h
    exact .refl _

theorem State.cadenceNotice_queues (s : State) (r : RingNo) (m : MasterNo) (a : Option Word) (old new : CadClass)
    (i : BitVec 16) (w : Bool) : (s.cadenceNotice r m a old new i w).queues = s.queues :=
  ((State.Handled.refl s).cadenceNotice r m a old new i w).queues

theorem execCadenceCommit_queues (h : execCadenceCommit r s = .next t) : t.queues = s.queues := by
  unfold execCadenceCommit at h
  dsimp only at h
  split at h
  · split at h <;> cases h
    · unfold State.cadenceCommit
      dsimp only
      split
      · rfl
      · exact State.cadenceNotice_queues _ _ _ _ _ _ _ _
    · rfl
  · cases h
    rfl

theorem execWatchExpiry_queues (h : execWatchExpiry r s = .next t) : t.queues = s.queues := by
  unfold execWatchExpiry at h
  split at h
  · dsimp only at h
    split at h <;> cases h
    · rfl
    · exact State.cadenceNotice_queues _ _ _ _ _ _ _ _
  · cases h
    rfl

theorem execStopCadence_queues (h : execStopCadence r s = .next t) : t.queues = s.queues := by
  unfold execStopCadence at h
  split at h <;> cases h <;> rfl

theorem execCadenceRingStart_queues (h : execCadenceRingStart r s = .next t) : t.queues = s.queues := by
  unfold execCadenceRingStart at h
  split at h <;> cases h <;> rfl

theorem execTick_step (h : execTick s = .next t) : s.queues.Step t.queues := by
  unfold execTick at h
  split at h <;> cases h
  · exact .refl _
  · exact ⟨id, fun law ticked => law ((Link.tick_idle _).1 ticked)⟩

theorem execMillisecondStep_queues (h : execMillisecondStep s = .next t) : t.queues = s.queues := by
  unfold execMillisecondStep at h
  split at h <;> cases h <;> rfl

theorem execTableReadResult_queues (h : execTableReadResult s = .next t) : t.queues = s.queues := by
  unfold execTableReadResult at h
  split at h
  · dsimp only at h
    split at h <;> cases h
    · exact State.tableReadDone_queues _ _ _
    · exact State.completeLoad_queues _
    · exact State.completeLoad_queues _
  · cases h
    rfl

theorem execRunEntryRings_queues (h : execRunEntryRings s = .next t) : t.queues = s.queues := by
  unfold execRunEntryRings at h
  split at h
  · have kept := State.Handled.foldl_runEntryRing (List.finRange 8)
      ((State.Handled.start s).setHand { s.hand with runRings := false })
    rw [Host.Outcome.next.injEq] at h
    rw [h] at kept
    exact kept.queues
  · cases h
    rfl

theorem execHeaderCopy_queues (h : execHeaderCopy s = .next t) : t.queues = s.queues := by
  unfold execHeaderCopy at h
  split at h <;> cases h <;> rfl

theorem execResetNRelease_queues {st : Straps} (h : execResetNRelease st s = .next t) : t.queues = s.queues := by
  unfold execResetNRelease at h
  split at h <;> cases h
  · exact State.endReset_queues _ _
  · rfl

theorem execPoll_queues {n : Nat} (h : execPoll s n = .next t) : t.queues = s.queues := by
  unfold execPoll at h
  split at h
  · cases h
    rfl
  · dsimp only at h
    split at h
    · split at h <;> cases h <;> rfl
    · cases h
      rfl

/-! The management commands -/

variable {code : Byte} {owner : State → Reply}

theorem State.takeCommand_step (ho : ∀ u : State, u.queues.Step (owner u).state.queues) :
    s.queues.Step (s.begin.takeCommand code owner).queues := by
  obtain ⟨ml, e | e⟩ := s.takeCommand_cases code owner
  · rw [e]
    exact .refl _
  · rw [e]
    exact ho s.framed

theorem shortCommand_step (ho : ∀ u : State, u.queues.Step (owner u).state.queues)
    (h : shortCommand code owner s = .next t) : s.queues.Step t.queues := by
  cases h
  exact State.takeCommand_step ho

/-- A command whose owner leaves both queues alone. -/
theorem shortCommand_step_of_eq (ho : ∀ u : State, (owner u).state.queues = u.queues)
    (h : shortCommand code owner s = .next t) : s.queues.Step t.queues :=
  shortCommand_step (fun u => .of_eq (ho u)) h

theorem execCommandFrameMalformed_step {args : List Byte} (h : execCommandFrameMalformed code args s = .next t) :
    s.queues.Step t.queues := by
  unfold execCommandFrameMalformed at h
  split at h <;> cases h
  exact State.takeCommand_step fun _ => .refl _

variable (b : Byte) (u : State)

theorem ownReadWindow_queues : (ownReadWindow b u).state.queues = u.queues := by
  unfold ownReadWindow
  split <;> rfl

theorem ownReadRing_queues : (ownReadRing b u).state.queues = u.queues := by
  unfold ownReadRing
  split <;> rfl

theorem ownReadCell_queues : (ownReadCell b u).state.queues = u.queues := by
  unfold ownReadCell
  split <;> rfl

theorem ownReadMaster_queues : (ownReadMaster b u).state.queues = u.queues := by
  unfold ownReadMaster
  split <;> rfl

theorem ownWriteHeader_queues (ws : Tbl Word 14) : (ownWriteHeader ws u).state.queues = u.queues := by
  unfold ownWriteHeader
  split
  · rfl
  · split
    · rfl
    · split <;> rfl

theorem ownWriteWindow_queues (e : WindowWords) : (ownWriteWindow b e u).state.queues = u.queues := by
  unfold ownWriteWindow
  split
  · rfl
  · split
    · rfl
    · split
      · rfl
      · split
        · rfl
        · split <;> rfl

theorem ownWriteRing_queues (rec : RingWords) : (ownWriteRing b rec u).state.queues = u.queues := by
  unfold ownWriteRing
  split
  · rfl
  · split
    · split
      · rfl
      · split
        · rfl
        · split <;> rfl
    · rfl

theorem ownRingStart_queues : (ownRingStart b u).state.queues = u.queues := by
  unfold ownRingStart
  split
  · rfl
  · next r _ =>
    split
    · rfl
    · split
      · rfl
      · exact ((((State.Handled.refl u).setRing r _ (by rfl)).setHand _).wakeRequests r).queues

theorem ownRingStop_queues : (ownRingStop b u).state.queues = u.queues := by
  unfold ownRingStop
  split
  · rfl
  · split <;> rfl

theorem ownFreeCell_queues : (ownFreeCell b u).state.queues = u.queues := by
  unfold ownFreeCell
  split
  · rfl
  · split
    · rfl
    · split
      · rfl
      · exact ((State.Handled.refl u).forceEnd _ _ _).queues

theorem ownSetPriority_queues (p : Byte) : (ownSetPriority b p u).state.queues = u.queues := by
  unfold ownSetPriority
  split
  · rfl
  · split <;> rfl

theorem ownReopenMaster_queues : (ownReopenMaster b u).state.queues = u.queues := by
  unfold ownReopenMaster
  split
  · rfl
  · split <;> rfl

theorem State.releaseWithdrawn_queues (e : QueueEntry) : (u.releaseWithdrawn e).queues = u.queues := by
  unfold State.releaseWithdrawn
  split
  · exact (((State.Handled.refl u).setLane _ _ _).wakeRequests _).queues
  · rfl
  · rfl
  · rfl

theorem State.withdraw_step (m : MasterNo) : u.queues.Step (u.withdraw m).queues := by
  have answered : u.queues.Step ((u.removeQueued m).answer m (.fault .dropped)).queues :=
    (u.removeQueued_step m).trans (.of_eq ((State.Handled.refl (u.removeQueued m)).answer m _).queues)
  unfold State.withdraw
  dsimp only
  split
  · exact answered.trans (.of_eq (State.releaseWithdrawn_queues _ _))
  · exact answered

theorem State.dropRequest_step (m : MasterNo) : u.queues.Step (u.dropRequest m).queues := by
  unfold State.dropRequest
  split
  · exact u.withdraw_step m
  · exact .of_eq ((State.Handled.refl u).cancelEntries _ _).queues
  · exact .refl _
  · exact .refl _
  · exact .refl _
  · exact .refl _

theorem ownDropMaster_step : u.queues.Step (ownDropMaster b u).state.queues := by
  unfold ownDropMaster
  split
  · exact .refl _
  · next m _ =>
    split
    · exact .refl _
    · exact State.dropRequest_step (((u.setMaster m _).giveNotice _).setHand _) m

/-- The head record leaves the queue (R165). -/
theorem ownTakeNotice_step : u.queues.Step (ownTakeNotice u).state.queues := by
  unfold ownTakeNotice
  split
  · exact .refl _
  · next rec rest queue =>
    refine State.setNw_step fun h => ?_
    simp only [NoticeWriter.filled, queue, List.length_cons] at h ⊢
    omega

theorem ownSetMask_queues : (ownSetMask b u).state.queues = u.queues := by
  unfold ownSetMask
  split <;> rfl

/-- Neither a STALLED writer nor an IDLE one takes a place (R157, R163). -/
theorem ownClearStall_step : u.queues.Step (ownClearStall u).state.queues := by
  unfold ownClearStall
  split
  · next stalled =>
    refine Queues.Step.trans (State.setNw_step fun h => ?_) (.of_eq (State.nwEvaluate_queues _))
    simpa only [NoticeWriter.filled, stalled] using h
  · exact .refl _
  · exact .refl _

theorem ownStop_queues : (ownStop u).state.queues = u.queues := by
  unfold ownStop
  split <;> rfl

theorem ownStart_queues : (ownStart u).state.queues = u.queues := by
  unfold ownStart
  split <;> rfl

theorem ownLoad_queues (addr : Word) (frame : Byte) : (ownLoad addr frame u).state.queues = u.queues := by
  unfold ownLoad
  split
  · rfl
  · split <;> rfl

/-- A soft reset and a hard one leave both queues empty (R148, R150, R169). -/
theorem ownReset_step (st : Straps) (frame : Byte) : u.queues.Step (ownReset st frame u).state.queues :=
  .of_empty rfl rfl

theorem execResetNAssert_step (h : execResetNAssert s = .next t) : s.queues.Step t.queues := by
  cases h
  exact .of_empty rfl rfl

/-- Whatever the command, each of the two laws holds after it when it held before. -/
theorem exec_queues_step {c : Instr} (h : exec c s = .next t) : s.queues.Step t.queues := by
  cases c with
  | upstreamRequest => exact .of_eq (execUpstreamRequest_handled h).queues
  | admission => exact .of_eq (execAdmission_handled h).queues
  | replay => exact .of_eq (execReplay_handled h).queues
  | queueJoin => exact execQueueJoin_step h
  | downstreamDone => exact exec_downstreamDone_step h
  | downstreamRetry => exact exec_downstreamRetry_step h
  | downstreamFault => exact exec_downstreamFault_step h
  | responseTimeout => exact execResponseTimeout_step h
  | settlingEnd => exact execSettlingEnd_step h
  | passResult => exact .of_eq (execPassResult_handled h).queues
  | ringProducerDone => exact .of_eq (execRingProducerDone_handled h).queues
  | ringConsumerDone => exact .of_eq (execRingConsumerDone_handled h).queues
  | ringAccessFailed => exact .of_eq (execRingAccessFailed_handled h).queues
  | noticeWriteResult => exact execNoticeWriteResult_step h
  | cadenceCommit => exact .of_eq (execCadenceCommit_queues h)
  | watchExpiry => exact .of_eq (execWatchExpiry_queues h)
  | tick => exact execTick_step h
  | ringParkExpiry => exact .of_eq (execRingParkExpiry_handled h).queues
  | claimParkExpiry => exact .of_eq (execClaimParkExpiry_handled h).queues
  | millisecondStep => exact .of_eq (execMillisecondStep_queues h)
  | leaseExpiry => exact .of_eq (execLeaseExpiry_handled h).queues
  | noticeHandoff => exact execNoticeHandoff_step h
  | tableReadResult => exact .of_eq (execTableReadResult_queues h)
  | runEntryRings => exact .of_eq (execRunEntryRings_queues h)
  | runEntryNotices => exact .of_eq (execRunEntryNotices_handled h).queues
  | stopRings => exact .of_eq (execStopRings_handled h).queues
  | stopPool => exact .of_eq (execStopPool_handled h).queues
  | stopCells => exact .of_eq (execStopCells_handled h).queues
  | stopCadence => exact .of_eq (execStopCadence_queues h)
  | cadenceRingStart => exact .of_eq (execCadenceRingStart_queues h)
  | poolCancelRingStop => exact .of_eq (execPoolCancelRingStop_handled h).queues
  | poolCancelFreeze => exact .of_eq (execPoolCancelFreeze_handled h).queues
  | dropOwnerships => exact .of_eq (execDropOwnerships_handled h).queues
  | headerCopy => exact .of_eq (execHeaderCopy_queues h)
  | resetNAssert => exact execResetNAssert_step h
  | resetNRelease => exact .of_eq (execResetNRelease_queues h)
  | commandFrameMalformed => exact execCommandFrameMalformed_step h
  | poll => exact .of_eq (execPoll_queues h)
  | status => exact shortCommand_step_of_eq (fun _ => rfl) h
  | readHeader => exact shortCommand_step_of_eq (fun _ => rfl) h
  | writeHeader ws => exact shortCommand_step_of_eq (fun u => ownWriteHeader_queues u ws) h
  | readWindow b => exact shortCommand_step_of_eq (ownReadWindow_queues b) h
  | writeWindow b e => exact shortCommand_step_of_eq (fun u => ownWriteWindow_queues b u e) h
  | readRing b => exact shortCommand_step_of_eq (ownReadRing_queues b) h
  | writeRing b rec => exact shortCommand_step_of_eq (fun u => ownWriteRing_queues b u rec) h
  | ringStart b => exact shortCommand_step_of_eq (ownRingStart_queues b) h
  | ringStop b => exact shortCommand_step_of_eq (ownRingStop_queues b) h
  | readCell b => exact shortCommand_step_of_eq (ownReadCell_queues b) h
  | freeCell b => exact shortCommand_step_of_eq (ownFreeCell_queues b) h
  | readMaster b => exact shortCommand_step_of_eq (ownReadMaster_queues b) h
  | setPriority b p => exact shortCommand_step_of_eq (fun u => ownSetPriority_queues b u p) h
  | dropMaster b => exact shortCommand_step (ownDropMaster_step b) h
  | reopenMaster b => exact shortCommand_step_of_eq (ownReopenMaster_queues b) h
  | readPool => exact shortCommand_step_of_eq (fun _ => rfl) h
  | takeNotice => exact shortCommand_step ownTakeNotice_step h
  | setMask mask => exact shortCommand_step_of_eq (ownSetMask_queues mask) h
  | clearStall => exact shortCommand_step ownClearStall_step h
  | clearLost => exact shortCommand_step_of_eq (fun _ => rfl) h
  | stop => exact shortCommand_step_of_eq ownStop_queues h
  | start => exact shortCommand_step_of_eq ownStart_queues h
  | load addr => exact shortCommand_step_of_eq (fun u => ownLoad_queues u addr s.ml.frame) h
  | reset st => exact shortCommand_step (fun u => ownReset_step u st s.ml.frame) h

/-- A step on an empty queue of commands leaves both queues alone, the end of a soft reset included (log 8). -/
theorem step_queues_step (h : step s = .next t) : s.queues.Step t.queues := by
  unfold step at h
  split at h
  · cases h
    exact .of_eq s.idle_queues
  · next c rest _ => exact exec_queues_step (s := { s with pending := rest }) h

end QueueCommands

end Sys2Proof.Machine

namespace Sys2Proof.Proofs

open Sys2Proof.Machine

/-- Settles O9: every step is a step of the two queues, which keeps each law. -/
theorem queueLawsKept : Obligations.QueueLawsKept := by
  have keeps (s t : State) (h : step s = .next t) := (s.queues_step_iff t).1 (step_queues_step h)
  exact ⟨fun s t law h => (keeps s t h).1 law, fun s t law h => (keeps s t h).2 law⟩

end Sys2Proof.Proofs

namespace Sys2Proof.Machine

/-! ### The checks of a staging copy, in their order (R177, R178) -/

section Validate

variable {ws : List Word}

/-- The header of an image, when its words are in range (R2, R206). -/
def imageHeader (ws : List Word) : Option Header :=
  decodeHeader (imageWord ws 0) (imageWord ws 1) (Tbl.tabulate fun k => imageWord ws (2 + k.val))

/-! Checks 1 to 3 -/

theorem validate_badFormat (h : imageWord ws 0 ≠ 0x31200001) :
    validate ws = .error { code := .badFormat, index := none } := if_pos h

theorem validate_badBalance (format : imageWord ws 0 = 0x31200001) (h : ws.sum ≠ 0) :
    validate ws = .error { code := .badBalance, index := none } := by
  rw [validate, if_neg (not_not.2 format)]
  exact if_pos h

theorem validate_badHeader (format : imageWord ws 0 = 0x31200001) (balance : ws.sum = 0) (h : imageHeader ws = none) :
    validate ws = .error { code := .badHeader, index := none } := by
  rw [validate, if_neg (not_not.2 format), if_neg (show ¬ wordSum ws ≠ 0 from not_not.2 balance)]
  unfold imageHeader at h
  rw [h]

theorem validate_headed {h : Header} (format : imageWord ws 0 = 0x31200001) (balance : ws.sum = 0)
    (head : imageHeader ws = some h) :
    validate ws = validateTable h (Tbl.tabulate (imageWindow ws)) (imageRing ws) := by
  rw [validate, if_neg (not_not.2 format), if_neg (show ¬ wordSum ws ≠ 0 from not_not.2 balance)]
  unfold imageHeader at head
  rw [head]

/-- An outcome that is none of the first three failures comes of checks 4 to 7. -/
theorem validate_reaches_table {x : Except Failure Image} (h : validate ws = x)
    (later : ∀ code, code = .badFormat ∨ code = .badBalance ∨ code = .badHeader → x ≠ .error { code := code, index := none }) :
    imageWord ws 0 = 0x31200001 ∧ ws.sum = 0 ∧
      ∃ hd, imageHeader ws = some hd ∧ validateTable hd (Tbl.tabulate (imageWindow ws)) (imageRing ws) = x := by
  by_cases format : imageWord ws 0 = 0x31200001
  · by_cases balance : ws.sum = 0
    · cases head : imageHeader ws with
      | none => exact absurd (h.symm.trans (validate_badHeader format balance head)) (later _ (by simp))
      | some hd => exact ⟨format, balance, hd, rfl, (validate_headed format balance head).symm.trans h⟩
    · exact absurd (h.symm.trans (validate_badBalance format balance)) (later _ (by simp))
  · exact absurd (h.symm.trans (validate_badFormat format)) (later _ (by simp))

end Validate

/-! Checks 4 to 7 -/

section ValidateTable

variable {h : Header} {ws : Tbl WindowWords 32} {rws : RingNo → RingWords} {cs : Tbl RingConfig 8} {i j : WindowNo} {r : RingNo}

theorem ringIndex_eq {n : Fin 32} (hn : n.val = r.val) : ringIndex r = n := Fin.ext hn.symm

/-- What check 6(b) finds wrong with an entry (R178). -/
theorem bindingFails_iff : bindingFails ws cs j = true ↔
    winValid (ws.nth j) = true ∧ winKind (ws.nth j) = .ring ∧
      ((∃ i, i < j ∧ winSameRing (ws.nth i) (ws.nth j) = true) ∨
        winSize (ws.nth j) ≠ (cs.nth (winRing (ws.nth j))).slotSize * (cs.nth (winRing (ws.nth j))).slotCount) := by
  simp [bindingFails, and_assoc]

/-- The configurations of ring records that are all well formed (R177, check 6(a)). -/
theorem decoded_configs (decoded : ∀ r, decodeImageRing (rws r) = some (cs.nth r)) :
    (Tbl.tabulate fun r => (decodeImageRing (rws r)).getD RingConfig.unconfigured) = cs :=
  Tbl.ext_nth fun r => by rw [Tbl.nth_tabulate, decoded, Option.getD_some]

theorem firstMalformedRecord_none (decoded : ∀ r, decodeImageRing (rws r) = some (cs.nth r)) :
    ((List.finRange 8).find? fun r => (decodeImageRing (rws r)).isNone) = none :=
  find?_finRange_eq_none fun r => by simp [decoded r]

theorem noticeBound_of_binding (binding : ∀ r, h.noticeRing = some r →
    ∃ j, winNamesRing (ws.nth j) r = true ∧ winWriteSetEmpty (ws.nth j) = true) : noticeBound ws h.noticeRing = true := by
  unfold noticeBound
  split
  · rfl
  · next r hr =>
    obtain ⟨j, named, empty⟩ := binding r hr
    exact List.any_eq_true.2 ⟨j, List.mem_finRange j, by rw [named, empty]; rfl⟩

theorem noticeBound_eq_false (hr : h.noticeRing = some r)
    (unbound : ∀ j, winNamesRing (ws.nth j) r = true → winWriteSetEmpty (ws.nth j) = false) :
    noticeBound ws h.noticeRing = false := by
  rw [hr]
  refine List.any_eq_false.2 fun j _ => ?_
  cases named : winNamesRing (ws.nth j) r with
  | false => simp
  | true => simp [unbound j named]

theorem firstMalformedWindow_none (formed : ∀ j, winWellFormed (ws.nth j) = true) :
    ((List.finRange 32).find? fun j => !winWellFormed (ws.nth j)) = none :=
  find?_finRange_eq_none fun j => by simp [formed j]

/-! A failure names the lowest entry that fails -/

theorem validateTable_badWindow (bad : winWellFormed (ws.nth j) = false)
    (lowest : ∀ i, i < j → winWellFormed (ws.nth i) = true) :
    validateTable h ws rws = .error { code := .badWindow, index := some j } := by
  have found : ((List.finRange 32).find? fun j => !winWellFormed (ws.nth j)) = some j :=
    find?_finRange_eq_some (by simp [bad]) fun i hi => by simp [lowest i hi]
  simp only [validateTable, found]

theorem validateTable_overlap (formed : ∀ j, winWellFormed (ws.nth j) = true) (below : i < j)
    (bad : winOverlap (ws.nth i) (ws.nth j) = true)
    (lowest : ∀ k, k < j → ∀ l, l < k → winOverlap (ws.nth l) (ws.nth k) = false) :
    validateTable h ws rws = .error { code := .overlap, index := some j } := by
  simp only [validateTable, firstMalformedWindow_none formed, firstClash_eq_some below bad lowest]

/-- What checks 4 and 5 ask of the window entries. -/
structure WindowsPass (ws : Tbl WindowWords 32) : Prop where
  formed : ∀ j, winWellFormed (ws.nth j) = true
  apart : ∀ i j, i < j → winOverlap (ws.nth i) (ws.nth j) = false

theorem validateTable_badRecord (windows : WindowsPass ws) (bad : decodeImageRing (rws r) = none)
    (lowest : ∀ q, q < r → decodeImageRing (rws q) ≠ none) :
    validateTable h ws rws = .error { code := .badRing, index := some (ringIndex r) } := by
  have found : ((List.finRange 8).find? fun r => (decodeImageRing (rws r)).isNone) = some r :=
    find?_finRange_eq_some (by simp [bad]) fun q hq => by simpa [Option.isSome_iff_ne_none] using lowest q hq
  simp only [validateTable, firstMalformedWindow_none windows.formed, firstClash_eq_none windows.apart, found]

theorem validateTable_misbound (windows : WindowsPass ws) (decoded : ∀ r, decodeImageRing (rws r) = some (cs.nth r))
    (bad : bindingFails ws cs j = true) (lowest : ∀ i, i < j → bindingFails ws cs i = false) :
    validateTable h ws rws = .error { code := .badRing, index := some (ringIndex (winRing (ws.nth j))) } := by
  simp only [validateTable, firstMalformedWindow_none windows.formed, firstClash_eq_none windows.apart,
    firstMalformedRecord_none decoded, decoded_configs decoded, find?_finRange_eq_some bad lowest]

theorem validateTable_unboundNotices (windows : WindowsPass ws) (decoded : ∀ r, decodeImageRing (rws r) = some (cs.nth r))
    (bindings : ∀ j, bindingFails ws cs j = false) (hr : h.noticeRing = some r)
    (bad : noticeBound ws h.noticeRing = false) :
    validateTable h ws rws = .error { code := .badRing, index := some (ringIndex r) } := by
  have notices : noticeBound ws (some r) = false := hr ▸ bad
  simp only [validateTable, firstMalformedWindow_none windows.formed, firstClash_eq_none windows.apart,
    firstMalformedRecord_none decoded, decoded_configs decoded, find?_finRange_eq_none bindings, hr, notices, Option.map_some,
    Bool.false_eq_true, if_false]

theorem validateTable_badCells (windows : WindowsPass ws) (decoded : ∀ r, decodeImageRing (rws r) = some (cs.nth r))
    (bindings : ∀ j, bindingFails ws cs j = false) (bound : noticeBound ws h.noticeRing = true) (below : i < j)
    (bad : winCellsOverlap (ws.nth i) (ws.nth j) = true)
    (lowest : ∀ k, k < j → ∀ l, l < k → winCellsOverlap (ws.nth l) (ws.nth k) = false) :
    validateTable h ws rws = .error { code := .badCells, index := some j } := by
  simp only [validateTable, firstMalformedWindow_none windows.formed, firstClash_eq_none windows.apart,
    firstMalformedRecord_none decoded, decoded_configs decoded, find?_finRange_eq_none bindings, if_pos bound,
    firstClash_eq_some below bad lowest]

theorem validateTable_passed (windows : WindowsPass ws) (decoded : ∀ r, decodeImageRing (rws r) = some (cs.nth r))
    (bindings : ∀ j, bindingFails ws cs j = false) (bound : noticeBound ws h.noticeRing = true)
    (cells : ∀ i j, i < j → winCellsOverlap (ws.nth i) (ws.nth j) = false) :
    validateTable h ws rws = .ok { header := h, windows := ws, configs := cs } := by
  simp only [validateTable, firstMalformedWindow_none windows.formed, firstClash_eq_none windows.apart,
    firstMalformedRecord_none decoded, decoded_configs decoded, find?_finRange_eq_none bindings, if_pos bound,
    firstClash_eq_none cells]

/-! What an outcome says of the table -/

/-- The outcomes of checks 4 to 7, the failures of the first two with the entry that was found (R178). -/
theorem validateTable_cases (h : Header) (ws : Tbl WindowWords 32) (rws : RingNo → RingWords) :
    (∃ j, ((List.finRange 32).find? fun j => !winWellFormed (ws.nth j)) = some j ∧
      validateTable h ws rws = .error { code := .badWindow, index := some j }) ∨
    (∃ j, (firstClash fun i j => winOverlap (ws.nth i) (ws.nth j)) = some j ∧
      validateTable h ws rws = .error { code := .overlap, index := some j }) ∨
    (∃ code n, (code = .badRing ∨ code = .badCells) ∧ validateTable h ws rws = .error { code := code, index := n }) ∨
    ∃ cs, (∀ r, decodeImageRing (rws r) = some (Tbl.nth cs r)) ∧
      validateTable h ws rws = .ok { header := h, windows := ws, configs := cs } := by
  unfold validateTable
  split
  · next j found => exact .inl ⟨j, found, rfl⟩
  split
  · next j found => exact .inr (.inl ⟨j, found, rfl⟩)
  split
  · exact .inr (.inr (.inl ⟨_, _, .inl rfl, rfl⟩))
  next records =>
  dsimp only
  split
  · exact .inr (.inr (.inl ⟨_, _, .inl rfl, rfl⟩))
  split
  · split
    · exact .inr (.inr (.inl ⟨_, _, .inr rfl, rfl⟩))
    · refine .inr (.inr (.inr ⟨_, fun r => ?_, rfl⟩))
      have decodes : (decodeImageRing (rws r)).isSome = true := by simpa using find?_finRange_none records r
      obtain ⟨c, hc⟩ := Option.isSome_iff_exists.1 decodes
      rw [Tbl.nth_tabulate, hc, Option.getD_some]
  · exact .inr (.inr (.inl ⟨_, _, .inl rfl, rfl⟩))

theorem validateTable_badWindow_index
    (hv : validateTable h ws rws = .error { code := .badWindow, index := some j }) :
    winWellFormed (ws.nth j) = false ∧ ∀ i, i < j → winWellFormed (ws.nth i) = true := by
  obtain ⟨k, found, e⟩ | ⟨k, -, e⟩ | ⟨code, n, rfl | rfl, e⟩ | ⟨cs, -, e⟩ := validateTable_cases h ws rws <;>
    cases e.symm.trans hv
  simpa using find?_finRange_some found

theorem validateTable_overlap_index (hv : validateTable h ws rws = .error { code := .overlap, index := some j }) :
    (∃ i, i < j ∧ winOverlap (ws.nth i) (ws.nth j) = true) ∧
      ∀ k, k < j → ∀ i, i < k → winOverlap (ws.nth i) (ws.nth k) = false := by
  obtain ⟨k, -, e⟩ | ⟨k, found, e⟩ | ⟨code, n, rfl | rfl, e⟩ | ⟨cs, -, e⟩ := validateTable_cases h ws rws <;>
    cases e.symm.trans hv
  exact firstClash_some found

theorem validateTable_ok {i : Image} (hv : validateTable h ws rws = .ok i) :
    i.header = h ∧ i.windows = ws ∧ ∀ r, decodeImageRing (rws r) = some (i.configs.nth r) := by
  obtain ⟨k, -, e⟩ | ⟨k, -, e⟩ | ⟨code, n, -, e⟩ | ⟨cs, decoded, e⟩ := validateTable_cases h ws rws <;>
    cases e.symm.trans hv
  exact ⟨rfl, rfl, decoded⟩

end ValidateTable

end Sys2Proof.Machine

namespace Sys2Proof.Machine

/-! ### What a validated image is, and what a failure names -/

section Outcomes

variable {ws : List Word} {j : WindowNo}

/-- An image that passes has its format and balance words right, and is taken as it stands (R177, R179). -/
theorem validate_ok {i : Image} (hv : validate ws = .ok i) :
    imageWord ws 0 = 0x31200001 ∧ ws.sum = 0 ∧ imageHeader ws = some i.header ∧ (∀ w, i.windows.nth w = imageWindow ws w) ∧
      ∀ r, decodeImageRing (imageRing ws r) = some (i.configs.nth r) := by
  obtain ⟨format, balance, h, head, passed⟩ := validate_reaches_table hv (by simp)
  obtain ⟨rfl, windows, decoded⟩ := validateTable_ok passed
  exact ⟨format, balance, head, fun w => by rw [windows, Tbl.nth_tabulate], decoded⟩

theorem validate_badWindow_index (hv : validate ws = .error { code := .badWindow, index := some j }) :
    winWellFormed (imageWindow ws j) = false ∧ ∀ i, i < j → winWellFormed (imageWindow ws i) = true := by
  obtain ⟨-, -, h, -, failed⟩ := validate_reaches_table hv (by simp)
  simpa using validateTable_badWindow_index failed

theorem validate_overlap_index (hv : validate ws = .error { code := .overlap, index := some j }) :
    (∃ i, i < j ∧ winOverlap (imageWindow ws i) (imageWindow ws j) = true) ∧
      ∀ k, k < j → ∀ i, i < k → winOverlap (imageWindow ws i) (imageWindow ws k) = false := by
  obtain ⟨-, -, h, -, failed⟩ := validate_reaches_table hv (by simp)
  simpa using validateTable_overlap_index failed

end Outcomes

end Sys2Proof.Machine

namespace Sys2Proof.Proofs

open Sys2Proof.Machine

/-- Settles O53: the checks one by one, each behind those before it; an image that passes is consistent. -/
theorem validatedTablesAreConsistent : Obligations.ValidatedTablesAreConsistent := by
  intro ws
  have entry (j : WindowNo) : (Tbl.tabulate (imageWindow ws)).nth j = imageWindow ws j := Tbl.nth_tabulate _ j
  refine ⟨fun i hv => ?_, validate_badFormat, validate_badBalance, fun j => validate_badWindow_index,
    fun j => validate_overlap_index, fun format balance => ⟨validate_badHeader format balance, fun h head => ?_⟩⟩
  · obtain ⟨format, balance, head, windows, decoded⟩ := validate_ok hv
    have ok := validate_consistent hv
    exact ⟨format, balance, (decodeHeader_inRange head).1, ok.wellFormed, ok.noOverlap, ok.noSharedCell, ok.noSharedRing,
      ok.sizes, validate_configs hv, ok.bound, head, windows, decoded⟩
  rw [validate_headed format balance head]
  simp only [← entry]
  refine ⟨fun j => validateTable_badWindow, fun formed => ⟨fun i j => validateTable_overlap formed, fun apart => ?_⟩⟩
  have windows : WindowsPass (Tbl.tabulate (imageWindow ws)) := ⟨formed, apart⟩
  refine ⟨fun r n hn bad lowest => ringIndex_eq hn ▸ validateTable_badRecord windows bad lowest, fun cs decoded => ?_⟩
  simp only [← bindingFails_iff, Bool.not_eq_true]
  refine ⟨fun j n hn bad lowest => ringIndex_eq hn ▸ validateTable_misbound windows decoded bad lowest, fun bindings => ?_⟩
  refine ⟨fun r n hn hr unbound => ringIndex_eq hn ▸
    validateTable_unboundNotices windows decoded bindings hr (noticeBound_eq_false hr unbound), fun bound => ?_⟩
  have notices := noticeBound_of_binding bound
  exact ⟨fun i j => validateTable_badCells windows decoded bindings notices,
    validateTable_passed windows decoded bindings notices⟩

end Sys2Proof.Proofs

namespace Sys2Proof.Machine

/-! ### The results of table reads (R176) -/

section TableReads

variable {s : State} {x : DownResult} {l : Load}

theorem State.exec_tableReadDone {data : List Byte} (found : s.hand.results.find? DownResult.forLoader = some x)
    (load : s.tl.load = some l) (done : x.ending = .done data) :
    exec .tableReadResult s = .next ((s.resultTaken x).tableReadDone l data) := by
  rw [← State.takeResult_eq found]
  simp only [exec, execTableReadResult, found, load, done]

/-- A table read that is not answered with DONE ends its load (R176, R180). -/
theorem State.exec_tableReadFailed (found : s.hand.results.find? DownResult.forLoader = some x) (load : s.tl.load = some l)
    (failed : x.ending = .fault ∨ x.ending = .timeout) :
    exec .tableReadResult s =
      .next ((s.resultTaken x).failLoad { code := .readFault, index := some (Fin.ofNat 32 l.reads) }) := by
  rw [← State.takeResult_eq found]
  rcases failed with ending | ending <;> simp only [exec, execTableReadResult, found, load, ending]

/-- A read before the last leaves the next one to make (R175, R176). -/
theorem State.tableReadDone_next (more : l.reads < 12) (data : List Byte) :
    s.tableReadDone l data =
      (s.setTl { s.tl with load := some { l with reads := l.reads + 1, staging := l.staging ++ data } }).handJoin
        (tableRead l.addr (l.reads + 1)) := if_pos (by unfold Config.tableReads; omega)

/-- The last read has the copy checked (R177). -/
theorem State.tableReadDone_last (last : l.reads = 12) (data : List Byte) :
    s.tableReadDone l data = s.finishLoad l (l.staging ++ data) := if_neg (by unfold Config.tableReads; omega)

theorem State.finishLoad_error {staging : List Byte} {f : Failure} (checked : validate (wordsOf staging) = .error f) :
    s.finishLoad l staging = s.failLoad f := by
  rw [State.finishLoad, checked]

theorem State.finishLoad_ok {staging : List Byte} {i : Image} (checked : validate (wordsOf staging) = .ok i) :
    s.finishLoad l staging = ((s.install i).leaveLoading l.origin).completeLoad := by
  rw [State.finishLoad, checked]

/-- The masters but number 0 take the priorities of the table that is installed (R3). -/
theorem State.install_master (s : State) (i : Image) (m : MasterNo) :
    (s.install i).master m = if m = 0 then s.master m else { s.master m with prio := i.header.prios.nth m } :=
  State.copyHeader_master _ m

/-- The end of a load that has passed its checks (R179, R180). -/
theorem State.finished_eq (s : State) (i : Image) (o : Origin) :
    ((s.install i).leaveLoading o).completeLoad =
      { s with
        part := (match o with | .reset => .running | .command => .halted),
        header := i.header, windows := i.windows, rings := (s.install i).rings, masters := (s.install i).masters,
        cadence := Tbl.all 8
          { cls := .unknown, candidate := none, run := 0, elapsed := none, last := none, watch := none },
        nw := { s.nw with mask := i.header.mask },
        tl := { valid := true, code := .ok, index := none, load := none },
        ml := s.afterLoad,
        hand :=
          { s.hand with
            runRings := (match o with | .reset => true | .command => s.hand.runRings),
            runNotices := (match o with | .reset => true | .command => s.hand.runNotices) },
        out := s.out } := by
  rw [State.completeLoad_eq]
  cases o <;> rfl

end TableReads

end Sys2Proof.Machine

namespace Sys2Proof.Proofs

open Sys2Proof.Machine

/-- Settles O52: by the ending of the read, its number and the outcome of the checks. -/
theorem tableReadsFillCheckAndInstall : Obligations.TableReadsFillCheckAndInstall := by
  intro x l s found load s1
  refine ⟨fun data done more => ?_, fun i failed hi => ?_, fun data f done last checked => ?_,
    fun data i done last checked => ?_⟩
  · rw [State.exec_tableReadDone found load done, State.tableReadDone_next more]
    rfl
  · have index : Fin.ofNat 32 l.reads = i := Fin.ext (by simp [← hi])
    rw [State.exec_tableReadFailed found load failed, index]
    exact congrArg _ (State.failLoad_eq s1 _)
  · rw [State.exec_tableReadDone found load done, State.tableReadDone_last last, State.finishLoad_error checked]
    exact congrArg _ (State.failLoad_eq s1 f)
  · have installed := State.exec_tableReadDone found load done
    rw [State.tableReadDone_last last, State.finishLoad_ok checked, State.finished_eq] at installed
    exact ⟨_, installed, rfl, State.install_master (s.resultTaken x) i, State.install_ring (s.resultTaken x) i⟩

end Sys2Proof.Proofs

namespace Sys2Proof.Machine

/-! ### The resets (R171 to R173) -/

section Resets

variable {s : State}

/-- Both resets start from the blocks' values of `State.reset` (R23, R55, R79, R102, R114, R131, R150, R169, R174, R186). -/
theorem State.reset_blockResetValues : State.reset.blockResetValues := by
  have window (w : WindowNo) : State.reset.window w = Tbl.all 4 0 := Tbl.nth_all _ w
  have cad (r : RingNo) : State.reset.cad r = Cadence.initial := Tbl.nth_all _ r
  refine ⟨rfl, rfl, rfl, rfl, rfl, rfl, rfl, rfl, rfl, rfl, fun m => Tbl.nth_all _ m, fun w => ?_, fun r => ?_, fun r => ?_,
    rfl, rfl, fun c => ?_, rfl, rfl, fun m => ?_, rfl, rfl, rfl, rfl, rfl, rfl, rfl, rfl, rfl, rfl, rfl⟩
  · rw [window w]
    exact ⟨by decide, rfl⟩
  · rw [State.reset_ring r]
    exact ⟨rfl, rfl, rfl, rfl, rfl, rfl, rfl, rfl, rfl, rfl, rfl, rfl, rfl, rfl⟩
  · rw [cad r]
    exact ⟨rfl, rfl, rfl, rfl, rfl, rfl⟩
  · rw [State.reset_cell c]
    exact ⟨rfl, rfl, rfl, rfl⟩
  · rw [State.reset_master m]
    exact ⟨rfl, rfl, rfl⟩

theorem State.reset_hardResetValues : State.reset.hardResetValues :=
  ⟨rfl, State.reset_blockResetValues, rfl, rfl, rfl, rfl⟩

/-! The answers of a soft reset (R130; log 40) -/

theorem Outstanding.phase_ne_none (o : Outstanding) : (o.phase != .none) = true ↔ o ≠ .none := by
  cases o <;> simp [Outstanding.phase]

/-- Each master of the list with an outstanding request is answered, in list order. -/
theorem State.foldl_answer_out (a : Answer) : ∀ (l : List MasterNo) (s : State), l.Nodup →
    (l.foldl (fun t m => t.answer m a) s).out =
      s.out ++ (l.filter fun m => (s.master m).outst.phase != .none).map fun m => .answer m a
  | [], s, _ => by simp
  | m :: l, s, nodup => by
    obtain ⟨fresh, nodup⟩ := List.nodup_cons.1 nodup
    have others : (l.filter fun q => ((s.answer m a).master q).outst.phase != .none) =
        l.filter fun q => (s.master q).outst.phase != .none :=
      List.filter_congr fun q mem => by rw [State.answer_master_ne s m a fun e => fresh (e ▸ mem)]
    rw [List.foldl_cons, foldl_answer_out a l _ nodup, others]
    by_cases idle : (s.master m).outst = .none
    · have quiet : ¬ ((s.master m).outst.phase != .none) = true := fun h => (Outstanding.phase_ne_none _).1 h idle
      rw [State.answer_none s m a idle, List.filter_cons, if_neg quiet]
    · have owed : ((s.master m).outst.phase != .none) = true := (Outstanding.phase_ne_none _).2 idle
      rw [State.answer_eq s m a idle, List.filter_cons, if_pos owed, List.map_cons, List.append_assoc, List.singleton_append]

theorem State.answerAll_out (s : State) (reason : Reason) :
    (s.answerAll reason).out =
      s.out ++ ((List.finRange 16).filter fun m => (s.master m).outst.phase != .none).map fun m => .answer m (.fault reason) :=
  State.foldl_answer_out _ _ s (List.nodup_finRange 16)

/-- A RESET that is taken answers every request, leaves the blocks at their values after soft reset, and is pending (R130, R148, R173,
R190, R201). -/
theorem State.exec_reset_accepted (ready : s.linkReady) (st : Straps) :
    exec (.reset st) s =
      .next
        { State.reset with
          resetAsserted := false, strapPins := st, straps := s.straps, cause := s.cause,
          ml :=
            { response := some { code := 0x18, frame := s.ml.frame, status := .pending, refusal := false, data := [] },
              long := some { command := .reset, frame := s.ml.frame }, frame := nextFrame s.ml.frame },
          out := ((List.finRange 16).filter fun m => (s.master m).outst.phase != .none).map fun m =>
            .answer m (.fault .reset),
          free := s.free, pending := s.pending, dn := { queue := [], link := s.dn.link.softReset, tag := 0 } } := by
  refine congrArg Host.Outcome.next ((State.takeCommand_ready ready _ _).trans ?_)
  rw [ownReset, State.beginSoftReset_eq, State.answerAll_out]
  rfl

end Resets

end Sys2Proof.Machine

namespace Sys2Proof.Proofs

open Sys2Proof.Machine

/-- Settles O2: the assertion leaves the reset state in every block. -/
theorem resetNAssertGivesHardResetValues : Obligations.ResetNAssertGivesHardResetValues :=
  ⟨State.reset_hardResetValues, fun s =>
    ⟨s.hardReset, rfl, State.reset_hardResetValues, rfl, rfl, rfl, rfl, rfl, rfl⟩⟩

/-- Settles O55: what a reset leaves when it begins, and what the sampled straps make of its end. -/
theorem resetsSampleTheStrapsAndStartAgain : Obligations.ResetsSampleTheStrapsAndStartAgain := by
  intro st s starts
  refine ⟨fun asserted => ?_, fun released => ?_, fun ready => ?_, fun p empty pending command pins => ?_⟩
  · have sampled : exec (.resetNRelease st) s = .next ({ s.begin with strapPins := st }.endReset .line) := if_pos asserted
    rw [sampled, State.endReset_eq _ .line rfl]
    unfold starts
    split <;> rfl
  · exact if_neg (by simp [released])
  · refine ⟨_, State.exec_reset_accepted ready st, rfl, rfl, rfl, rfl, rfl, State.reset_blockResetValues, rfl, rfl, rfl,
      fun idle => ?_, fun f issued => ?_, fun tag left settling => ?_, rfl⟩
    · exact congrArg Link.softReset idle
    · exact congrArg Link.softReset issued
    · exact congrArg Link.softReset settling
  · have ended : step s = .next (s.begin.endSoftReset p.frame) := by
      simp only [step, empty, State.idle, pending, command]
    rw [ended, State.endSoftReset, State.endReset_eq s.begin .command pins]
    unfold starts
    subst pins
    split <;> rfl

end Sys2Proof.Proofs

namespace Sys2Proof.Machine

/-! ### The part state, the time base and the start-up state

`State.startUp` keeps of a state the part's own record: the part state with the reset line and its cause, the sampled straps, the timestamp,
the lease divider, the table loader and the pending long command. Few commands change it, and `StartUp.Step` names what each may do. -/

structure StartUp where
  part : PartState
  resetAsserted : Bool
  cause : ResetCause
  straps : Straps
  timestamp : Word
  divider : Nat
  tl : Loader
  long : Option PendingCommand

def State.startUp (s : State) : StartUp :=
  { part := s.part, resetAsserted := s.resetAsserted, cause := s.cause, straps := s.straps, timestamp := s.timestamp,
    divider := s.cu.divider, tl := s.tl, long := s.ml.long }

/-- The record at the end of a reset (R171 to R173), with LOADING and the load at reset when the strap asks for it. -/
def StartUp.restarted (x : StartUp) (st : Straps) (cause : ResetCause) : StartUp :=
  { x with
    part := if st.loadOnReset then .loading else .halted, resetAsserted := false, cause := cause, straps := st,
    tl := if st.loadOnReset then
        { x.tl with load := some { origin := .reset, addr := tableBase st, reads := 0, staging := [] } }
      else x.tl }

/-- What a command may do to the record: leave it; advance the time (R94, R185); turn RUNNING to HALTED or back (R183, R184); take a table
read or end its load (R176, R180); begin a load or a reset, or end a reset (R171 to R173, R181). -/
inductive StartUp.Step (x y : StartUp) : Instr → Prop
  | kept {c : Instr} (same : y = x) : Step x y c
  | ticked (timestamp : Word) (divider : Nat) (advanced : y = { x with timestamp := timestamp, divider := divider }) :
      Step x y .tick
  | turned {c : Instr} (p : PartState) (was : x.part = .running ∨ x.part = .halted) (now : p = .running ∨ p = .halted)
      (changed : y = { x with part := p }) : Step x y c
  | readTaken (l k : Load) (was : x.tl.load = some l) (origin : k.origin = l.origin)
      (filled : y = { x with tl := { x.tl with load := some k } }) : Step x y .tableReadResult
  | loadEnded (l : Load) (p : PartState) (tl : Loader) (was : x.tl.load = some l) (now : p = .running ∨ p = .halted)
      (cleared : tl.load = none) (ended : y = { x with part := p, tl := tl, long := x.long.filter (·.command == .reset) }) :
      Step x y .tableReadResult
  | loadBegun {addr : Word} (frame : Byte) (was : x.part = .halted)
      (begun : y = { x with
        part := .loading, tl := { x.tl with load := some { origin := .command, addr := addr, reads := 0, staging := [] } },
        long := some { command := .load, frame := frame } }) : Step x y (.load addr)
  | resetBegun {st : Straps} (frame : Byte)
      (begun : y = { State.reset.startUp with
        cause := x.cause, straps := x.straps, resetAsserted := false,
        long := some { command := .reset, frame := frame } }) : Step x y (.reset st)
  | asserted (values : y = { State.reset.startUp with cause := x.cause, straps := x.straps }) : Step x y .resetNAssert
  | released {st : Straps} (was : x.resetAsserted = true) (ended : y = x.restarted st .line) : Step x y (.resetNRelease st)

section StartUpOps

variable {s t u : State}

/-- What the handling of requests, results, wakes and notices leaves alone holds the record. -/
theorem State.Handled.startUp (h : s.Handled t) : t.startUp = s.startUp := by
  unfold State.startUp
  rw [h.part, h.resetAsserted, h.cause, h.straps, h.timestamp, h.cu, h.tl, h.ml]

/-! The downstream port -/

theorem State.arbitrate_startUp (s : State) : s.arbitrate.startUp = s.startUp := by
  by_cases hidle : s.dn.link = .idle
  · by_cases hq : s.dn.queue = []
    · rw [State.arbitrate_empty s hq]
    · obtain ⟨pre, e, post, -, -, -, issued⟩ := s.arbitrate_spec hidle hq
      rw [issued]
      rfl
  · rw [State.arbitrate_busy s hidle]

theorem State.join_startUp (s : State) (e : QueueEntry) : (s.join e).startUp = s.startUp := by
  by_cases hidle : s.dn.link = .idle
  · rw [State.join_idle s e hidle]
    rfl
  · rw [State.join_busy s e hidle]
    rfl

theorem State.doneFlight_startUp (s : State) (e : QueueEntry) (data : List Byte) :
    (s.doneFlight e data).startUp = s.startUp := by
  unfold State.doneFlight
  split
  · exact State.arbitrate_startUp _
  · split <;> exact State.arbitrate_startUp _

theorem State.retried_startUp (s : State) (f : InFlight) : (s.retried f).startUp = s.startUp := by
  unfold State.retried
  split
  · rfl
  · exact State.arbitrate_startUp _

theorem State.afterResponse_startUp {tag : BitVec 4} {taken : InFlight → State}
    (h : ∀ f, (taken f).startUp = s.startUp) : (s.afterResponse tag taken).startUp = s.startUp := by
  unfold State.afterResponse
  split
  · split
    · exact h _
    · rfl
  · split
    · exact State.arbitrate_startUp _
    · rfl
  · rfl

/-! Notices and cadence -/

theorem State.nwEvaluate_startUp (s : State) : s.nwEvaluate.startUp = s.startUp :=
  (State.Handled.refl s).nwEvaluate.startUp

theorem State.createNotice_startUp (s : State) (n : Notice) : (s.createNotice n).startUp = s.startUp := by
  unfold State.createNotice
  dsimp only
  split
  · exact State.nwEvaluate_startUp _
  · rfl

theorem State.noticeResult_startUp (s : State) (r : NoticeResult) (sent : NoticeRecord) :
    (s.noticeResult r sent).startUp = s.startUp := by
  unfold State.noticeResult
  split
  · split <;> exact State.nwEvaluate_startUp _
  · rfl

theorem State.cadenceNotice_startUp (s : State) (r : RingNo) (m : MasterNo) (a : Option Word) (old new : CadClass)
    (i : BitVec 16) (w : Bool) : (s.cadenceNotice r m a old new i w).startUp = s.startUp :=
  ((State.Handled.refl s).cadenceNotice r m a old new i w).startUp

theorem State.cadenceCommit_startUp (s : State) (c : CommitSignal) : (s.cadenceCommit c).startUp = s.startUp := by
  unfold State.cadenceCommit
  dsimp only
  split
  · rfl
  · exact State.cadenceNotice_startUp _ _ _ _ _ _ _ _

/-! The table loader and the resets -/

/-- A pending LOAD ends with its load, a pending RESET does not (R180, R193). -/
theorem State.afterLoad_long (s : State) : s.afterLoad.long = s.ml.long.filter (·.command == .reset) := by
  unfold State.afterLoad
  cases pending : s.ml.long with
  | none => exact pending
  | some p =>
    obtain ⟨command, frame⟩ := p
    cases command with
    | load => rfl
    | reset => exact pending

theorem State.failLoad_startUp (s : State) (f : Failure) :
    (s.failLoad f).startUp =
      { s.startUp with
        part := .halted, tl := { s.tl with code := f.code, index := f.index, load := none },
        long := s.ml.long.filter (·.command == .reset) } := by
  rw [State.failLoad, State.completeLoad_eq, ← State.afterLoad_long]
  rfl

theorem State.finished_startUp (s : State) (i : Image) (o : Origin) :
    (((s.install i).leaveLoading o).completeLoad).startUp =
      { s.startUp with
        part := (match o with | .reset => .running | .command => .halted),
        tl := { valid := true, code := .ok, index := none, load := none },
        long := s.ml.long.filter (·.command == .reset) } := by
  rw [State.finished_eq, ← State.afterLoad_long]
  rfl

theorem State.finishLoad_startUpStep {l : Load} (was : s.tl.load = some l) (staging : List Byte) :
    s.startUp.Step (s.finishLoad l staging).startUp .tableReadResult := by
  unfold State.finishLoad
  split
  · exact .loadEnded l _ _ was (.inr rfl) rfl (State.failLoad_startUp _ _)
  · next i _ =>
    refine .loadEnded l _ _ was ?_ rfl (s.finished_startUp i l.origin)
    cases l.origin
    · exact .inl rfl
    · exact .inr rfl

theorem State.endReset_startUp (s : State) (cause : ResetCause) :
    (s.endReset cause).startUp = s.startUp.restarted s.strapPins cause := by
  unfold State.endReset StartUp.restarted
  dsimp only
  split <;> rfl

end StartUpOps

/-! The blocks' own events -/

section StartUpEvents

variable {s t : State} {r : RingNo}

theorem execQueueJoin_startUp {src : Source} (h : execQueueJoin src s = .next t) : t.startUp = s.startUp := by
  unfold execQueueJoin at h
  dsimp only at h
  split at h <;> cases h
  · exact State.join_startUp _ _
  · rfl

theorem exec_downstreamDone_startUp {tag : BitVec 4} {data : List Byte}
    (h : exec (.downstreamDone tag data) s = .next t) : t.startUp = s.startUp := by
  cases (State.exec_downstreamDone s tag data).symm.trans h
  exact State.afterResponse_startUp fun f => s.begin.doneFlight_startUp f.entry data

theorem exec_downstreamRetry_startUp {tag : BitVec 4} (h : exec (.downstreamRetry tag) s = .next t) :
    t.startUp = s.startUp := by
  cases (State.exec_downstreamRetry s tag).symm.trans h
  exact State.afterResponse_startUp s.retried_startUp

theorem exec_downstreamFault_startUp {tag : BitVec 4} (h : exec (.downstreamFault tag) s = .next t) :
    t.startUp = s.startUp := by
  cases (State.exec_downstreamFault s tag).symm.trans h
  exact State.afterResponse_startUp fun f => State.arbitrate_startUp _

theorem execResponseTimeout_startUp (h : execResponseTimeout s = .next t) : t.startUp = s.startUp := by
  unfold execResponseTimeout at h
  split at h
  · split at h <;> cases h
    · exact State.arbitrate_startUp _
    · rfl
  · cases h
    rfl
  · cases h
    rfl

theorem execSettlingEnd_startUp (h : execSettlingEnd s = .next t) : t.startUp = s.startUp := by
  unfold execSettlingEnd at h
  split at h
  · split at h <;> cases h
    · exact State.arbitrate_startUp _
    · rfl
  · cases h
    rfl
  · cases h
    rfl

theorem execNoticeWriteResult_startUp (h : execNoticeWriteResult s = .next t) : t.startUp = s.startUp := by
  unfold execNoticeWriteResult at h
  split at h <;> cases h
  · exact State.noticeResult_startUp _ _ _
  · rfl

theorem execNoticeHandoff_startUp {i : Nat} (h : execNoticeHandoff i s = .next t) : t.startUp = s.startUp := by
  unfold execNoticeHandoff at h
  split at h
  · dsimp only at h
    split at h <;> cases h
    · exact State.createNotice_startUp _ _
    · rfl
  · cases h
    rfl

theorem execCadenceCommit_startUp (h : execCadenceCommit r s = .next t) : t.startUp = s.startUp := by
  unfold execCadenceCommit at h
  dsimp only at h
  split at h
  · split at h <;> cases h
    · exact State.cadenceCommit_startUp _ _
    · rfl
  · cases h
    rfl

theorem execWatchExpiry_startUp (h : execWatchExpiry r s = .next t) : t.startUp = s.startUp := by
  unfold execWatchExpiry at h
  split at h
  · dsimp only at h
    split at h <;> cases h
    · rfl
    · exact State.cadenceNotice_startUp _ _ _ _ _ _ _ _
  · cases h
    rfl

theorem execStopCadence_startUp (h : execStopCadence r s = .next t) : t.startUp = s.startUp := by
  unfold execStopCadence at h
  split at h <;> cases h <;> rfl

theorem execCadenceRingStart_startUp (h : execCadenceRingStart r s = .next t) : t.startUp = s.startUp := by
  unfold execCadenceRingStart at h
  split at h <;> cases h <;> rfl

/-- The milliseconds that are due are not the divider's (R94; log 23). -/
theorem execMillisecondStep_startUp (h : execMillisecondStep s = .next t) : t.startUp = s.startUp := by
  unfold execMillisecondStep at h
  split at h <;> cases h <;> rfl

theorem execTick_startUpStep (h : execTick s = .next t) : s.startUp.Step t.startUp .tick := by
  unfold execTick at h
  split at h <;> cases h
  · exact .kept rfl
  · exact .ticked _ _ rfl

theorem execTableReadResult_startUpStep (h : execTableReadResult s = .next t) :
    s.startUp.Step t.startUp .tableReadResult := by
  unfold execTableReadResult at h
  split at h
  · next x l _ load =>
    have was : s.startUp.tl.load = some l := load
    dsimp only at h
    split at h <;> cases h
    · unfold State.tableReadDone
      split
      · refine .readTaken l _ was ?_ rfl
        rfl
      · exact State.finishLoad_startUpStep (s := s.begin.takeResult DownResult.forLoader) was _
    all_goals exact .loadEnded l _ _ was (.inr rfl) rfl (State.failLoad_startUp _ _)
  · cases h
    exact .kept rfl

theorem execRunEntryRings_startUp (h : execRunEntryRings s = .next t) : t.startUp = s.startUp := by
  unfold execRunEntryRings at h
  split at h
  · have kept := State.Handled.foldl_runEntryRing (List.finRange 8)
      ((State.Handled.start s).setHand { s.hand with runRings := false })
    rw [Host.Outcome.next.injEq] at h
    rw [h] at kept
    exact kept.startUp
  · cases h
    rfl

theorem execHeaderCopy_startUp (h : execHeaderCopy s = .next t) : t.startUp = s.startUp := by
  unfold execHeaderCopy at h
  split at h <;> cases h <;> rfl

theorem execResetNRelease_startUpStep {st : Straps} (h : execResetNRelease st s = .next t) :
    s.startUp.Step t.startUp (.resetNRelease st) := by
  unfold execResetNRelease at h
  split at h <;> cases h
  · next was => exact .released was (State.endReset_startUp _ _)
  · exact .kept rfl

theorem execPoll_startUp {n : Nat} (h : execPoll s n = .next t) : t.startUp = s.startUp := by
  unfold execPoll at h
  split at h
  · cases h
    rfl
  · dsimp only at h
    split at h
    · split at h <;> cases h <;> rfl
    · cases h
      rfl

end StartUpEvents

/-! The management commands -/

section StartUpCommands

variable {s t : State} {code : Byte} {owner : State → Reply}

/-- The link's own part of a command leaves the record alone; its owner acts on it only when the link takes the command (R190, R202). -/
theorem State.takeCommand_startUp (s : State) (code : Byte) (owner : State → Reply) :
    (s.begin.takeCommand code owner).startUp = s.startUp ∨
      s.linkReady ∧ (s.begin.takeCommand code owner).startUp = (owner s.framed).state.startUp := by
  by_cases ready : s.linkReady
  · exact .inr ⟨ready, by rw [State.takeCommand_ready ready]; rfl⟩
  · left
    unfold State.takeCommand
    split
    · rfl
    · next released =>
      dsimp only
      split
      · rfl
      · next none => exact absurd ⟨Bool.eq_false_iff.2 released, none⟩ ready

theorem State.takeCommand_startUp_of_kept (ho : ∀ u, (owner u).state.startUp = u.startUp) :
    (s.begin.takeCommand code owner).startUp = s.startUp :=
  (s.takeCommand_startUp code owner).elim id fun taken => taken.2.trans (ho s.framed)

theorem shortCommand_startUp (ho : ∀ u, (owner u).state.startUp = u.startUp) (h : shortCommand code owner s = .next t) :
    t.startUp = s.startUp := by
  cases h
  exact State.takeCommand_startUp_of_kept ho

theorem execCommandFrameMalformed_startUp {args : List Byte} (h : execCommandFrameMalformed code args s = .next t) :
    t.startUp = s.startUp := by
  unfold execCommandFrameMalformed at h
  split at h <;> cases h
  exact State.takeCommand_startUp_of_kept fun _ => rfl

/-! Owners that leave the record alone -/

section Owners

variable (b : Byte) (u : State)

theorem ownReadWindow_startUp : (ownReadWindow b u).state.startUp = u.startUp := by
  unfold ownReadWindow
  split <;> rfl

theorem ownReadRing_startUp : (ownReadRing b u).state.startUp = u.startUp := by
  unfold ownReadRing
  split <;> rfl

theorem ownReadCell_startUp : (ownReadCell b u).state.startUp = u.startUp := by
  unfold ownReadCell
  split <;> rfl

theorem ownReadMaster_startUp : (ownReadMaster b u).state.startUp = u.startUp := by
  unfold ownReadMaster
  split <;> rfl

theorem ownWriteHeader_startUp (w : Tbl Word 14) : (ownWriteHeader w u).state.startUp = u.startUp := by
  unfold ownWriteHeader
  repeat' split
  all_goals rfl

theorem ownWriteWindow_startUp (e : WindowWords) : (ownWriteWindow b e u).state.startUp = u.startUp := by
  unfold ownWriteWindow
  repeat' split
  all_goals rfl

theorem ownWriteRing_startUp (rec : RingWords) : (ownWriteRing b rec u).state.startUp = u.startUp := by
  unfold ownWriteRing
  repeat' split
  all_goals rfl

theorem ownRingStart_startUp : (ownRingStart b u).state.startUp = u.startUp := by
  unfold ownRingStart
  split
  · rfl
  · next r _ =>
    split
    · rfl
    · split
      · rfl
      · exact ((((State.Handled.refl u).setRing r _ (by rfl)).setHand _).wakeRequests r).startUp

theorem ownRingStop_startUp : (ownRingStop b u).state.startUp = u.startUp := by
  unfold ownRingStop
  repeat' split
  all_goals rfl

theorem ownFreeCell_startUp : (ownFreeCell b u).state.startUp = u.startUp := by
  unfold ownFreeCell
  split
  · rfl
  · split
    · rfl
    · split
      · rfl
      · exact ((State.Handled.refl u).forceEnd _ _ _).startUp

theorem ownSetPriority_startUp (p : Byte) : (ownSetPriority b p u).state.startUp = u.startUp := by
  unfold ownSetPriority
  repeat' split
  all_goals rfl

theorem ownReopenMaster_startUp : (ownReopenMaster b u).state.startUp = u.startUp := by
  unfold ownReopenMaster
  repeat' split
  all_goals rfl

theorem State.withdraw_startUp (m : MasterNo) : (u.withdraw m).startUp = u.startUp := by
  have answered : ((u.removeQueued m).answer m (.fault .dropped)).startUp = u.startUp :=
    ((State.Handled.refl (u.removeQueued m)).answer m _).startUp
  unfold State.withdraw
  dsimp only
  split
  · unfold State.releaseWithdrawn
    split
    · exact ((((State.Handled.refl _).setLane _ _ _).wakeRequests _).startUp).trans answered
    all_goals exact answered
  · exact answered

theorem State.dropRequest_startUp (m : MasterNo) : (u.dropRequest m).startUp = u.startUp := by
  unfold State.dropRequest
  split
  · exact u.withdraw_startUp m
  · exact ((State.Handled.refl u).cancelEntries _ _).startUp
  all_goals rfl

theorem ownDropMaster_startUp : (ownDropMaster b u).state.startUp = u.startUp := by
  unfold ownDropMaster
  split
  · rfl
  · split
    · rfl
    · exact State.dropRequest_startUp _ _

theorem ownTakeNotice_startUp : (ownTakeNotice u).state.startUp = u.startUp := by
  unfold ownTakeNotice
  split <;> rfl

theorem ownSetMask_startUp : (ownSetMask b u).state.startUp = u.startUp := by
  unfold ownSetMask
  split <;> rfl

theorem ownClearStall_startUp : (ownClearStall u).state.startUp = u.startUp := by
  unfold ownClearStall
  split
  · exact State.nwEvaluate_startUp _
  all_goals rfl

end Owners

/-! Owners that change it: STOP, START, LOAD and RESET -/

theorem execStop_startUpStep (h : execStop s = .next t) : s.startUp.Step t.startUp .stop := by
  cases h
  obtain same | ⟨-, taken⟩ := s.takeCommand_startUp 0x15 ownStop
  · exact .kept same
  · rw [taken]
    by_cases running : s.part = .running
    · rw [ownStop_accept (u := s.framed) running]
      exact .turned .halted (.inl running) (.inr rfl) rfl
    · rw [ownStop_badState (u := s.framed) running]
      exact .kept rfl

theorem execStart_startUpStep (h : execStart s = .next t) : s.startUp.Step t.startUp .start := by
  cases h
  obtain same | ⟨-, taken⟩ := s.takeCommand_startUp 0x16 ownStart
  · exact .kept same
  · rw [taken]
    unfold ownStart
    split
    · exact .kept rfl
    · next able =>
      have halted : s.part = .halted := not_not.1 (not_or.1 able).1
      exact .turned .running (.inr halted) (.inl rfl) rfl

theorem execLoad_startUpStep {addr : Word} (h : execLoad addr s = .next t) : s.startUp.Step t.startUp (.load addr) := by
  cases h
  obtain same | ⟨-, taken⟩ := s.takeCommand_startUp 0x17 (ownLoad addr s.ml.frame)
  · exact .kept same
  · rw [taken]
    unfold ownLoad
    split
    · exact .kept rfl
    · split
      · exact .kept rfl
      · next halted => exact .loadBegun s.ml.frame (not_not.1 halted) rfl

theorem execReset_startUpStep {st : Straps} (h : execReset st s = .next t) : s.startUp.Step t.startUp (.reset st) := by
  cases h
  obtain same | ⟨-, taken⟩ := s.takeCommand_startUp 0x18 (ownReset st s.ml.frame)
  · exact .kept same
  · rw [taken, ownReset, State.beginSoftReset_eq]
    exact .resetBegun s.ml.frame rfl

/-- Every command does to the record what `StartUp.Step` allows it. -/
theorem exec_startUpStep {c : Instr} (h : exec c s = .next t) : s.startUp.Step t.startUp c := by
  cases c with
  | upstreamRequest => exact .kept (execUpstreamRequest_handled h).startUp
  | admission => exact .kept (execAdmission_handled h).startUp
  | replay => exact .kept (execReplay_handled h).startUp
  | queueJoin => exact .kept (execQueueJoin_startUp h)
  | downstreamDone => exact .kept (exec_downstreamDone_startUp h)
  | downstreamRetry => exact .kept (exec_downstreamRetry_startUp h)
  | downstreamFault => exact .kept (exec_downstreamFault_startUp h)
  | responseTimeout => exact .kept (execResponseTimeout_startUp h)
  | settlingEnd => exact .kept (execSettlingEnd_startUp h)
  | passResult => exact .kept (execPassResult_handled h).startUp
  | ringProducerDone => exact .kept (execRingProducerDone_handled h).startUp
  | ringConsumerDone => exact .kept (execRingConsumerDone_handled h).startUp
  | ringAccessFailed => exact .kept (execRingAccessFailed_handled h).startUp
  | noticeWriteResult => exact .kept (execNoticeWriteResult_startUp h)
  | cadenceCommit => exact .kept (execCadenceCommit_startUp h)
  | watchExpiry => exact .kept (execWatchExpiry_startUp h)
  | tick => exact execTick_startUpStep h
  | ringParkExpiry => exact .kept (execRingParkExpiry_handled h).startUp
  | claimParkExpiry => exact .kept (execClaimParkExpiry_handled h).startUp
  | millisecondStep => exact .kept (execMillisecondStep_startUp h)
  | leaseExpiry => exact .kept (execLeaseExpiry_handled h).startUp
  | noticeHandoff => exact .kept (execNoticeHandoff_startUp h)
  | tableReadResult => exact execTableReadResult_startUpStep h
  | runEntryRings => exact .kept (execRunEntryRings_startUp h)
  | runEntryNotices => exact .kept (execRunEntryNotices_handled h).startUp
  | stopRings => exact .kept (execStopRings_handled h).startUp
  | stopPool => exact .kept (execStopPool_handled h).startUp
  | stopCells => exact .kept (execStopCells_handled h).startUp
  | stopCadence => exact .kept (execStopCadence_startUp h)
  | cadenceRingStart => exact .kept (execCadenceRingStart_startUp h)
  | poolCancelRingStop => exact .kept (execPoolCancelRingStop_handled h).startUp
  | poolCancelFreeze => exact .kept (execPoolCancelFreeze_handled h).startUp
  | dropOwnerships => exact .kept (execDropOwnerships_handled h).startUp
  | headerCopy => exact .kept (execHeaderCopy_startUp h)
  | resetNAssert => cases h; exact .asserted rfl
  | resetNRelease => exact execResetNRelease_startUpStep h
  | commandFrameMalformed => exact .kept (execCommandFrameMalformed_startUp h)
  | poll => exact .kept (execPoll_startUp h)
  | status => exact .kept (shortCommand_startUp (fun _ => rfl) h)
  | readHeader => exact .kept (shortCommand_startUp (fun _ => rfl) h)
  | writeHeader w => exact .kept (shortCommand_startUp (fun u => ownWriteHeader_startUp u w) h)
  | readWindow b => exact .kept (shortCommand_startUp (ownReadWindow_startUp b) h)
  | writeWindow b e => exact .kept (shortCommand_startUp (fun u => ownWriteWindow_startUp b u e) h)
  | readRing b => exact .kept (shortCommand_startUp (ownReadRing_startUp b) h)
  | writeRing b rec => exact .kept (shortCommand_startUp (fun u => ownWriteRing_startUp b u rec) h)
  | ringStart b => exact .kept (shortCommand_startUp (ownRingStart_startUp b) h)
  | ringStop b => exact .kept (shortCommand_startUp (ownRingStop_startUp b) h)
  | readCell b => exact .kept (shortCommand_startUp (ownReadCell_startUp b) h)
  | freeCell b => exact .kept (shortCommand_startUp (ownFreeCell_startUp b) h)
  | readMaster b => exact .kept (shortCommand_startUp (ownReadMaster_startUp b) h)
  | setPriority b p => exact .kept (shortCommand_startUp (fun u => ownSetPriority_startUp b u p) h)
  | dropMaster b => exact .kept (shortCommand_startUp (ownDropMaster_startUp b) h)
  | reopenMaster b => exact .kept (shortCommand_startUp (ownReopenMaster_startUp b) h)
  | readPool => exact .kept (shortCommand_startUp (fun _ => rfl) h)
  | takeNotice => exact .kept (shortCommand_startUp ownTakeNotice_startUp h)
  | setMask mask => exact .kept (shortCommand_startUp (ownSetMask_startUp mask) h)
  | clearStall => exact .kept (shortCommand_startUp ownClearStall_startUp h)
  | clearLost => exact .kept (shortCommand_startUp (fun _ => rfl) h)
  | stop => exact execStop_startUpStep h
  | start => exact execStart_startUpStep h
  | load => exact execLoad_startUpStep h
  | reset => exact execReset_startUpStep h

/-- On an empty queue the record stays, or a soft reset ends (R173, R193; log 8). -/
theorem State.idle_startUp (s : State) :
    s.idle.startUp = s.startUp ∧ (∀ p, s.ml.long = some p → p.command = .load) ∨
      ∃ p, s.ml.long = some p ∧ p.command = .reset ∧
        s.idle.startUp = { s.startUp.restarted s.strapPins .command with long := none } := by
  unfold State.idle
  split
  · next p pending =>
    split
    · next command =>
      have ended := State.endReset_startUp s.begin .command
      exact .inr ⟨p, pending, command, congrArg (fun x : StartUp => { x with long := none }) ended⟩
    · next command => exact .inl ⟨rfl, fun q h => by rwa [← Option.some.inj (pending.symm.trans h)]⟩
  · next none => exact .inl ⟨rfl, fun p h => by rw [none] at h; cases h⟩

end StartUpCommands

end Sys2Proof.Machine

namespace Sys2Proof.Machine

/-! ### The law of the part state (R170, R173, R174, R193) -/

/-- The law of the part state, said of the record. -/
structure StartUp.Lawful (x : StartUp) : Prop where
  reset : x.part = .reset ↔ x.resetAsserted = true ∨ ∃ p, x.long = some p ∧ p.command = .reset
  loading : x.part = .loading ↔ x.tl.load.isSome = true
  long : ∀ p, x.long = some p → x.resetAsserted = false ∧ (p.command = .load → ∃ l, x.tl.load = some l ∧ l.origin = .command)

theorem State.partLaw_iff (s : State) : s.partLaw ↔ s.startUp.Lawful :=
  ⟨fun ⟨reset, loading, long⟩ => ⟨reset, loading, long⟩, fun h => ⟨h.reset, h.loading, h.long⟩⟩

section PartLaw

variable {x y : StartUp}

theorem LongCommand.ne_reset_iff (c : LongCommand) : c ≠ .reset ↔ c = .load := by cases c <;> simp

/-- RUNNING and HALTED are neither RESET nor LOADING. -/
theorem PartState.at_rest {p : PartState} (h : p = .running ∨ p = .halted) : p ≠ .reset ∧ p ≠ .loading := by
  rcases h with rfl | rfl <;> simp

/-- Outside RESET the law asks that the line is released, that LOADING goes with a load, and that what is pending is the LOAD of the load in
progress. -/
theorem StartUp.lawful_iff_of_outside (out : x.part ≠ .reset) :
    x.Lawful ↔ x.resetAsserted = false ∧ (x.part = .loading ↔ x.tl.load.isSome = true) ∧
      ∀ p, x.long = some p → p.command = .load ∧ ∃ l, x.tl.load = some l ∧ l.origin = .command := by
  constructor
  · intro h
    refine ⟨Bool.eq_false_iff.2 fun line => out (h.reset.2 (.inl line)), h.loading, fun p pending => ?_⟩
    have load : p.command = .load :=
      (LongCommand.ne_reset_iff _).1 fun command => out (h.reset.2 (.inr ⟨p, pending, command⟩))
    exact ⟨load, (h.long p pending).2 load⟩
  · rintro ⟨line, loading, load⟩
    refine ⟨⟨fun h => absurd h out, fun h => ?_⟩, loading, fun p pending => ⟨line, fun _ => (load p pending).2⟩⟩
    rcases h with asserted | ⟨p, pending, command⟩
    · rw [line] at asserted
      cases asserted
    · exact absurd (load p pending).1 (by simp [command])

/-- No load is in progress outside LOADING. -/
theorem StartUp.Lawful.no_load (h : x.Lawful) (out : x.part ≠ .loading) : x.tl.load = none :=
  Option.not_isSome_iff_eq_none.1 fun some => out (h.loading.2 some)

/-- The end of a reset takes the part to LOADING with its load, or to HALTED without one (R171 to R173). -/
theorem StartUp.restarted_lawful (st : Straps) (cause : ResetCause) (idle : x.tl.load = none) (done : x.long = none) :
    (x.restarted st cause).Lawful := by
  have out : (x.restarted st cause).part ≠ .reset := by
    unfold StartUp.restarted
    split <;> simp
  refine (StartUp.lawful_iff_of_outside out).2 ⟨rfl, ?_, fun p pending => ?_⟩
  · unfold StartUp.restarted
    split <;> simp [idle]
  · exact absurd (done.symm.trans pending) (by simp)

theorem StartUp.Step.keeps_lawful {c : Instr} (h : x.Step y c) (law : x.Lawful) : y.Lawful := by
  cases h with
  | kept same => rwa [same]
  | ticked _ _ advanced =>
    subst advanced
    exact ⟨law.reset, law.loading, law.long⟩
  | turned p was now changed =>
    subst changed
    obtain ⟨outReset, outLoading⟩ := PartState.at_rest was
    obtain ⟨line, -, pending⟩ := (StartUp.lawful_iff_of_outside outReset).1 law
    refine (StartUp.lawful_iff_of_outside (PartState.at_rest now).1).2 ⟨line, ?_, pending⟩
    simp [law.no_load outLoading, (PartState.at_rest now).2]
  | readTaken l k was origin filled =>
    subst filled
    have loading : x.part = .loading := law.loading.2 (by rw [was]; rfl)
    obtain ⟨line, -, pending⟩ := (StartUp.lawful_iff_of_outside (by simp [loading])).1 law
    refine (StartUp.lawful_iff_of_outside (by simp [loading])).2 ⟨line, by simp [loading], fun p long => ?_⟩
    obtain ⟨command, _, load, own⟩ := pending p long
    cases was.symm.trans load
    exact ⟨command, k, rfl, origin.trans own⟩
  | loadEnded l p tl was now cleared ended =>
    subst ended
    have loading : x.part = .loading := law.loading.2 (by rw [was]; rfl)
    obtain ⟨line, -, pending⟩ := (StartUp.lawful_iff_of_outside (by simp [loading])).1 law
    refine (StartUp.lawful_iff_of_outside (PartState.at_rest now).1).2 ⟨line, ?_, fun q long => ?_⟩
    · simp [cleared, (PartState.at_rest now).2]
    · obtain ⟨long, reset⟩ := Option.filter_eq_some_iff.1 long
      simp [(pending q long).1] at reset
  | loadBegun frame was begun =>
    subst begun
    obtain ⟨line, -, -⟩ := (StartUp.lawful_iff_of_outside (by simp [was])).1 law
    refine (StartUp.lawful_iff_of_outside (by simp)).2 ⟨line, by simp, fun p long => ?_⟩
    cases long
    exact ⟨rfl, _, rfl, rfl⟩
  | resetBegun frame begun =>
    subst begun
    refine ⟨⟨fun _ => .inr ⟨_, rfl, rfl⟩, fun _ => rfl⟩, ⟨nofun, nofun⟩, fun p long => ?_⟩
    cases long
    exact ⟨rfl, nofun⟩
  | asserted values =>
    subst values
    have reset := State.reset.partLaw_iff.1 State.reset_partLaw
    exact ⟨reset.reset, reset.loading, reset.long⟩
  | released was ended =>
    subst ended
    have inReset : x.part = .reset := law.reset.2 (.inl was)
    refine StartUp.restarted_lawful _ _ (law.no_load (by simp [inReset])) ?_
    cases long : x.long with
    | none => rfl
    | some p => exact absurd was (by simp [(law.long p long).1])

end PartLaw

end Sys2Proof.Machine

namespace Sys2Proof.Proofs

open Sys2Proof.Machine

/-- Settles O10: each change that `StartUp.Step` allows keeps the law, and so does the end of a soft reset. -/
theorem partLawKept : Obligations.PartLawKept := by
  intro s t law h
  rw [State.partLaw_iff] at law ⊢
  unfold step at h
  split at h
  · cases h
    obtain ⟨same, -⟩ | ⟨p, pending, command, ended⟩ := s.idle_startUp
    · rwa [same]
    · have inReset : s.startUp.part = .reset := law.reset.2 (.inr ⟨p, pending, command⟩)
      have idle : s.startUp.tl.load = none := law.no_load (by simp [inReset])
      rw [ended]
      exact StartUp.restarted_lawful (x := { s.startUp with long := none }) _ _ idle rfl
  · next c rest _ => exact (exec_startUpStep (s := { s with pending := rest }) h).keeps_lawful law

end Sys2Proof.Proofs

namespace Sys2Proof.Machine

/-! ### The time and the start-up state by command (R94, R102, R172 to R174, R185, R186) -/

section TimeFrame

variable {x y : StartUp} {c : Instr}

theorem StartUp.Step.time_kept (h : x.Step y c) (noReset : ∀ st, c ≠ .reset st) (noTick : c ≠ .tick)
    (noAssert : c ≠ .resetNAssert) : y.timestamp = x.timestamp ∧ y.divider = x.divider := by
  cases h with
  | ticked => exact absurd rfl noTick
  | resetBegun => exact absurd rfl (noReset _)
  | asserted => exact absurd rfl noAssert
  | kept e => rw [e]; exact ⟨rfl, rfl⟩
  | turned _ _ _ e => rw [e]; exact ⟨rfl, rfl⟩
  | readTaken _ _ _ _ e => rw [e]; exact ⟨rfl, rfl⟩
  | loadEnded _ _ _ _ _ _ e => rw [e]; exact ⟨rfl, rfl⟩
  | loadBegun _ _ e => rw [e]; exact ⟨rfl, rfl⟩
  | released _ e => rw [e]; exact ⟨rfl, rfl⟩

theorem StartUp.Step.straps_kept (h : x.Step y c) (noRelease : ∀ st, c ≠ .resetNRelease st) :
    y.straps = x.straps ∧ y.cause = x.cause := by
  cases h with
  | released => exact absurd rfl (noRelease _)
  | kept e => rw [e]; exact ⟨rfl, rfl⟩
  | ticked _ _ e => rw [e]; exact ⟨rfl, rfl⟩
  | turned _ _ _ e => rw [e]; exact ⟨rfl, rfl⟩
  | readTaken _ _ _ _ e => rw [e]; exact ⟨rfl, rfl⟩
  | loadEnded _ _ _ _ _ _ e => rw [e]; exact ⟨rfl, rfl⟩
  | loadBegun _ _ e => rw [e]; exact ⟨rfl, rfl⟩
  | resetBegun _ e => rw [e]; exact ⟨rfl, rfl⟩
  | asserted e => rw [e]; exact ⟨rfl, rfl⟩

theorem StartUp.restarted_valid (x : StartUp) (st : Straps) (cause : ResetCause) :
    (x.restarted st cause).tl.valid = x.tl.valid := by
  unfold StartUp.restarted
  split <;> rfl

theorem StartUp.Step.valid_kept (h : x.Step y c) (noReset : ∀ st, c ≠ .reset st) (noRead : c ≠ .tableReadResult)
    (noAssert : c ≠ .resetNAssert) : y.tl.valid = x.tl.valid := by
  cases h with
  | readTaken => exact absurd rfl noRead
  | loadEnded => exact absurd rfl noRead
  | resetBegun => exact absurd rfl (noReset _)
  | asserted => exact absurd rfl noAssert
  | kept e => rw [e]
  | ticked _ _ e => rw [e]
  | turned _ _ _ e => rw [e]
  | loadBegun _ _ e => rw [e]
  | released _ e => rw [e, StartUp.restarted_valid]

end TimeFrame

end Sys2Proof.Machine

namespace Sys2Proof.Proofs

open Sys2Proof.Machine

/-- Settles O15: by what `StartUp.Step` allows each command, and by the end of a soft reset. -/
theorem timeAndStartUpStateChangeOnlyByTheirCommands : Obligations.TimeAndStartUpStateChangeOnlyByTheirCommands := by
  refine ⟨fun c s t h => ?_, fun s t empty h => ?_⟩
  · have steps := exec_startUpStep h
    exact ⟨steps.time_kept, steps.straps_kept, steps.valid_kept⟩
  · have idled : s.idle = t := by
      rw [step, empty] at h
      exact Host.Outcome.next.inj h
    subst idled
    obtain ⟨same, -⟩ | ⟨p, pending, command, ended⟩ := s.idle_startUp
    · exact ⟨congrArg StartUp.timestamp same, congrArg StartUp.divider same, congrArg (·.tl.valid) same,
        fun _ => ⟨congrArg StartUp.straps same, congrArg StartUp.cause same⟩⟩
    · exact ⟨congrArg StartUp.timestamp ended, congrArg StartUp.divider ended,
        (congrArg (·.tl.valid) ended).trans (StartUp.restarted_valid _ _ .command),
        fun load => absurd (load p pending) (by simp [command])⟩

end Sys2Proof.Proofs

namespace Sys2Proof

/-! ### Management frames: the arguments of a command, written and read (R188, R208, R209) -/

section Frames

/-! The words of an argument -/

theorem Tbl.ofList?_toList {α : Type} {n : Nat} (t : Tbl α n) : Tbl.ofList? n t.toList = some t := by
  simp only [Tbl.ofList?, dif_pos t.length_toList]
  rfl

/-- A byte string of `n` words' length is that of a table of words. -/
theorem exists_bytesOf_toList {n : Nat} {args : List Byte} (len : args.length = 4 * n) :
    ∃ w : Tbl Word n, bytesOf w.toList = args :=
  ⟨⟨⟨wordsOf args⟩, wordsOf_length n args len⟩, bytesOf_wordsOf n args len⟩

theorem bytesOf_toList_length {n : Nat} (w : Tbl Word n) : (bytesOf w.toList).length = 4 * n := by
  rw [bytesOf_length, Vector.length_toList]

theorem frameWords_bytesOf {n : Nat} (f : Tbl Word n → Instr) (w : Tbl Word n) :
    frameWords n f (bytesOf w.toList) = some (f w) := by
  rw [frameWords, if_pos (bytesOf_toList_length w), wordsOf_bytesOf, Tbl.ofList?_toList]
  rfl

theorem frameWords_length_ne {n : Nat} {f : Tbl Word n → Instr} {args : List Byte} (len : args.length ≠ 4 * n) :
    frameWords n f args = none := if_neg len

/-- The one word of LOAD's argument. -/
theorem toList_eq_nth_zero (w : Tbl Word 1) : w.toList = [w.nth 0] := by
  obtain ⟨⟨l⟩, len⟩ := w
  obtain ⟨a, rfl⟩ := List.length_eq_one_iff.1 len
  rfl

/-! What a reader makes of a frame -/

/-- What the bytes after a command's code are read as, beside the number of bytes that the code takes: the command they are written from, or
nothing when their number is another (R188, R209). -/
inductive FrameRead (code : Byte) (args : List Byte) : Option Nat → Option Instr → Prop
  | command {i : Instr} (named : commandCode i = some code) (written : frameArgs i = args) :
      FrameRead code args (some args.length) (some i)
  | malformed {count : Option Nat} (miscounted : count ≠ some args.length) : FrameRead code args count none

variable {code : Byte} {args : List Byte}

theorem FrameRead.command_of_some {count : Option Nat} {i : Instr} (read : FrameRead code args count (some i)) :
    commandCode i = some code ∧ frameArgs i = args ∧ count = some args.length := by
  cases read with
  | command named written => exact ⟨named, written, rfl⟩

theorem FrameRead.count_of_none {count : Option Nat} (read : FrameRead code args count none) : count ≠ some args.length := by
  cases read with
  | malformed miscounted => exact miscounted

theorem frame0_read {i : Instr} (named : commandCode i = some code) (written : frameArgs i = []) :
    FrameRead code args (some 0) (frame0 i args) := by
  match args with
  | [] => exact .command named written
  | _ :: _ => exact .malformed (by simp)

theorem frame1_read {f : Byte → Instr} (named : ∀ b, commandCode (f b) = some code)
    (written : ∀ b, frameArgs (f b) = [b]) : FrameRead code args (some 1) (frame1 f args) := by
  match args with
  | [] => exact .malformed (by simp)
  | [b] => exact .command (named b) (written b)
  | _ :: _ :: _ => exact .malformed (by simp)

theorem frame2_read {f : Byte → Byte → Instr} (named : ∀ b c, commandCode (f b c) = some code)
    (written : ∀ b c, frameArgs (f b c) = [b, c]) : FrameRead code args (some 2) (frame2 f args) := by
  match args with
  | [] => exact .malformed (by simp)
  | [_] => exact .malformed (by simp)
  | [b, c] => exact .command (named b c) (written b c)
  | _ :: _ :: _ :: _ => exact .malformed (by simp)

theorem frameWords_read {n : Nat} {f : Tbl Word n → Instr} (named : ∀ w, commandCode (f w) = some code)
    (written : ∀ w, frameArgs (f w) = bytesOf w.toList) : FrameRead code args (some (4 * n)) (frameWords n f args) := by
  by_cases len : args.length = 4 * n
  · obtain ⟨w, rfl⟩ := exists_bytesOf_toList len
    rw [frameWords_bytesOf, ← len]
    exact .command (named w) (written w)
  · rw [frameWords_length_ne len]
    exact .malformed fun e => len (Option.some.inj e).symm

theorem frameByteWords_read {n : Nat} {f : Byte → Tbl Word n → Instr} (named : ∀ b w, commandCode (f b w) = some code)
    (written : ∀ b w, frameArgs (f b w) = b :: bytesOf w.toList) :
    FrameRead code args (some (4 * n + 1)) (frameByteWords n f args) := by
  match args with
  | [] => exact .malformed (by simp)
  | b :: rest =>
    rw [frameByteWords]
    by_cases len : rest.length = 4 * n
    · obtain ⟨w, rfl⟩ := exists_bytesOf_toList len
      rw [frameWords_bytesOf, ← len]
      exact .command (named b w) (written b w)
    · rw [frameWords_length_ne len]
      exact .malformed (by simpa using Ne.symm len)

theorem eq_ofNat_of_toNat_eq {k : Nat} (value : code.toNat = k) : code = BitVec.ofNat 8 k := by
  rw [← value, BitVec.ofNat_toNat, BitVec.setWidth_eq]

/-- The bytes after each command code are read in the shape that R208 gives them; a code that names no command has none. -/
theorem wellFormedFrame_read (straps : Straps) (code : Byte) (args : List Byte) :
    FrameRead code args (argCount code) (wellFormedFrame straps code args) := by
  unfold wellFormedFrame
  split
  case h_25 =>
    have unnamed : argCount code = none := by simp_all [argCount]
    exact .malformed (by simp [unnamed])
  all_goals
    rename_i value
    obtain rfl := eq_ofNat_of_toNat_eq value
  case h_3 => exact frameWords_read (f := .writeHeader) (fun _ => rfl) fun _ => rfl
  case h_5 => exact frameByteWords_read (f := .writeWindow) (fun _ _ => rfl) fun _ _ => rfl
  case h_7 => exact frameByteWords_read (f := .writeRing) (fun _ _ => rfl) fun _ _ => rfl
  case h_13 => exact frame2_read (fun _ _ => rfl) fun _ _ => rfl
  case h_23 =>
    exact frameWords_read (f := fun w => .load (w.nth 0)) (fun _ => rfl) fun w => congrArg bytesOf (toList_eq_nth_zero w).symm
  case h_1 | h_2 | h_16 | h_17 | h_19 | h_20 | h_21 | h_22 | h_24 => exact frame0_read rfl rfl
  all_goals exact frame1_read (fun _ => rfl) fun _ => rfl

/-! What a command's frame is -/

variable {i : Instr}

theorem wf_of_commandCode (named : commandCode i = some code) : i.wf = true := by
  cases i <;> cases named <;> rfl

/-- The frame of a command is its code and its arguments (R208). -/
theorem encodeFrame_command (named : commandCode i = some code) : encodeFrame i = some (code :: frameArgs i) := by
  unfold encodeFrame
  split
  · cases named
  · cases named
  · rw [named]
    rfl

/-- A frame is written for POLL, for a malformed frame and for a command, and for nothing else. -/
theorem encodeFrame_cases {bytes : List Byte} (written : encodeFrame i = some bytes) :
    (∃ n, i = .poll n ∧ bytes = Config.pollCode :: List.replicate n 0) ∨
      (∃ code args, i = .commandFrameMalformed code args ∧ bytes = code :: args) ∨
        ∃ code, commandCode i = some code ∧ bytes = code :: frameArgs i := by
  unfold encodeFrame at written
  split at written
  · exact .inl ⟨_, rfl, (Option.some.inj written).symm⟩
  · exact .inr (.inl ⟨_, _, rfl, (Option.some.inj written).symm⟩)
  · obtain ⟨code, named, rfl⟩ := Option.map_eq_some_iff.1 written
    exact .inr (.inr ⟨code, named, rfl⟩)

/-- A command is read back from its code and its arguments; RESET with the strap levels that the reader is given (log 9). -/
theorem wellFormedFrame_frameArgs {straps : Straps} (named : commandCode i = some code)
    (levels : ∀ st, i = .reset st → st = straps) : wellFormedFrame straps code (frameArgs i) = some i := by
  cases i
  case writeHeader w =>
    cases named
    exact frameWords_bytesOf _ w
  case writeWindow w entry =>
    cases named
    exact frameWords_bytesOf _ entry
  case writeRing r rec =>
    cases named
    exact frameWords_bytesOf _ rec
  case load addr =>
    cases named
    exact frameWords_bytesOf (n := 1) _ #v[addr]
  case reset st =>
    cases named
    obtain rfl := levels st rfl
    rfl
  all_goals cases named <;> rfl

theorem commandCode_ne_pollCode (named : commandCode i = some code) : code ≠ Config.pollCode := by
  cases i <;> cases named <;> decide

/-! What `decodeFrame` reads -/

variable {straps : Straps}

theorem decodeFrame_poll : decodeFrame straps (Config.pollCode :: args) = some (.poll args.length) := by
  rw [decodeFrame, if_pos rfl]

theorem decodeFrame_command (noPoll : code ≠ Config.pollCode) (spelled : wellFormedFrame straps code args = some i) :
    decodeFrame straps (code :: args) = some i := by
  rw [decodeFrame, if_neg noPoll, spelled]

theorem frameMalformed_iff : frameMalformed code args = true ↔ code ≠ Config.pollCode ∧ argCount code ≠ some args.length := by
  simp [frameMalformed]

/-- A frame of no command, or of a command with another number of arguments, is read as malformed (R188, R209). -/
theorem decodeFrame_malformed (malformed : frameMalformed code args = true) :
    decodeFrame straps (code :: args) = some (.commandFrameMalformed code args) := by
  obtain ⟨noPoll, miscounted⟩ := frameMalformed_iff.1 malformed
  have read := wellFormedFrame_read straps code args
  cases spelled : wellFormedFrame straps code args with
  | none => rw [decodeFrame, if_neg noPoll, spelled]
  | some i =>
    obtain ⟨-, -, counted⟩ := (spelled ▸ read).command_of_some
    exact absurd counted miscounted

/-- A frame of at least one byte that is no POLL frame is read as the one command, malformed or not, that is written as it. -/
theorem decodeFrame_spells (straps : Straps) (args : List Byte) (noPoll : code ≠ Config.pollCode) :
    ∃ i, decodeFrame straps (code :: args) = some i ∧ i.wf = true ∧ encodeFrame i = some (code :: args) := by
  have read := wellFormedFrame_read straps code args
  cases spelled : wellFormedFrame straps code args with
  | none =>
    have malformed := frameMalformed_iff.2 ⟨noPoll, (spelled ▸ read).count_of_none⟩
    exact ⟨_, decodeFrame_malformed malformed, malformed, rfl⟩
  | some i =>
    obtain ⟨named, rfl, -⟩ := (spelled ▸ read).command_of_some
    exact ⟨i, decodeFrame_command noPoll spelled, wf_of_commandCode named, encodeFrame_command named⟩

end Frames

end Sys2Proof

namespace Sys2Proof.Proofs

open Sys2Proof.Machine

/-- Settles O5: a frame written is read back in each of its three kinds, and a frame read is POLL's or spells what it is read as. -/
theorem framesReadBack : Obligations.FramesReadBack := by
  refine fun straps => ⟨fun i bytes formed written levels => ?_, rfl, fun code args => ?_⟩
  · obtain ⟨n, rfl, rfl⟩ | ⟨code, args, rfl, rfl⟩ | ⟨code, named, rfl⟩ := encodeFrame_cases written
    · rw [decodeFrame_poll, List.length_replicate]
    · exact decodeFrame_malformed formed
    · exact decodeFrame_command (commandCode_ne_pollCode named) (wellFormedFrame_frameArgs named levels)
  · by_cases noPoll : code = Config.pollCode
    · subst noPoll
      exact ⟨_, decodeFrame_poll, rfl, fun _ => rfl, fun other => absurd rfl other⟩
    · obtain ⟨i, read, formed, written⟩ := decodeFrame_spells straps args noPoll
      exact ⟨i, read, formed, fun poll => absurd poll noPoll, fun _ => written⟩

end Sys2Proof.Proofs

namespace Sys2Proof.Machine

/-! ### Command frames refused, and POLL (R187 to R192, R202) -/

section LinkFrames

variable {s : State} {code : Byte} {owner : State → Reply}

/-- Every command frame, malformed or not, is taken by the link under its code. -/
theorem exec_commandFrame {c : Instr}
    (frame : commandCode c = some code ∨ ∃ args, c = .commandFrameMalformed code args ∧ frameMalformed code args = true)
    (s : State) : ∃ owner, exec c s = .next (s.begin.takeCommand code owner) := by
  obtain named | ⟨args, rfl, malformed⟩ := frame
  · cases c <;> cases named <;> exact ⟨_, rfl⟩
  · exact ⟨_, if_pos malformed⟩

theorem State.takeCommand_asserted (asserted : s.resetAsserted = true) : s.begin.takeCommand code owner = s.quiet :=
  if_pos asserted

/-- The link refusal of a frame while a long command is pending (R189, R191). -/
theorem State.takeCommand_busy {p : PendingCommand} (released : s.resetAsserted = false) (pending : s.ml.long = some p) :
    s.begin.takeCommand code owner =
      { s.quiet with
        ml :=
          { response := some { code := code, frame := s.ml.frame, status := .busy, refusal := true, data := [] },
            long := some p, frame := nextFrame s.ml.frame } } := by
  simp only [State.takeCommand, State.begin_resetAsserted, State.begin_ml, released, pending]
  simp [State.respond, State.numberFrame, State.setMl, State.begin, State.quiet, pending]

/-! POLL -/

theorem pollBytes_none (n : Nat) : pollBytes none n = List.replicate n 0 := by
  have zeros : responseBytes none = List.replicate 6 0 := rfl
  rw [pollBytes, zeros, List.replicate_append_replicate, List.take_replicate]
  simp

variable {n : Nat} {r : Response}

theorem execPoll_asserted (asserted : s.resetAsserted = true) : execPoll s n = .next s.quiet := if_pos asserted

/-- POLL leaves everything but a link refusal of a pending command as it was (R192). -/
theorem execPoll_shown (released : s.resetAsserted = false)
    (kept : ∀ r p, s.ml.response = some r → s.ml.long = some p → ¬ (r.status = .busy ∧ r.refusal = true)) :
    execPoll s n = .next { s with out := [.mdo (pollBytes s.ml.response n)] } := by
  rw [execPoll, if_neg (by simp [released])]
  dsimp only
  split
  · next r p response pending => rw [if_neg (kept r p response pending)]; rfl
  · rfl

/-- A link refusal turns back into the pending command's PENDING (R192). -/
theorem execPoll_refused {p : PendingCommand} (released : s.resetAsserted = false) (response : s.ml.response = some r)
    (busy : r.status = .busy) (refusal : r.refusal = true) (pending : s.ml.long = some p) :
    execPoll s n =
      .next
        ((s.begin.emit (.mdo (pollBytes (some r) n))).respond (match p.command with | .load => 0x17 | .reset => 0x18) p.frame
          .pending false []) := by
  rw [execPoll, if_neg (by simp [released])]
  obtain ⟨command, frame⟩ := p
  cases command <;> simp only [response, pending, if_pos (And.intro busy refusal)]

end LinkFrames

end Sys2Proof.Machine

namespace Sys2Proof.Proofs

open Sys2Proof.Machine

/-- Settles O56: the link's taking of a frame under reset and under a pending command, and the three cases of POLL. -/
theorem framesNumberedRefusedAndPolled : Obligations.FramesNumberedRefusedAndPolled := by
  refine ⟨fun c code s frame => ?_, fun code args s malformed ready => ?_, fun n s => ⟨execPoll_asserted, ?_, ?_⟩⟩
  · obtain ⟨owner, taken⟩ := exec_commandFrame frame s
    rw [taken]
    exact ⟨fun asserted => congrArg _ (State.takeCommand_asserted asserted),
      fun p released pending => congrArg _ (State.takeCommand_busy released pending)⟩
  · exact (if_pos malformed).trans (congrArg _ (State.takeCommand_refused ready code _ .badArg rfl))
  · intro released empty
    have shown := execPoll_shown (n := n) released (by simp [empty])
    rwa [empty, pollBytes_none] at shown
  · intro r released response
    refine ⟨fun kept => ?_, fun p busy refusal pending => execPoll_refused released response busy refusal pending⟩
    have shown := execPoll_shown (n := n) released fun q p same pending => by
      cases response.symm.trans same
      exact kept.resolve_right (by simp [pending])
    rwa [response] at shown

end Sys2Proof.Proofs

namespace Sys2Proof.Machine

/-! ### No command changes the queue of waiting commands (the block's interface)

What `State.Handled` allows leaves `pending` alone, and so do the operations below. The rest of a command is a case split that ends in
field updates, none of which names `pending`. -/

section PendingOperations

variable (s : State)

theorem State.nwEvaluate_pending : s.nwEvaluate.pending = s.pending := (State.Handled.refl s).nwEvaluate.pending

theorem State.wakeRequests_pending (r : RingNo) : (s.wakeRequests r).pending = s.pending :=
  ((State.Handled.refl s).wakeRequests r).pending

theorem State.answer_pending (m : MasterNo) (a : Answer) : (s.answer m a).pending = s.pending :=
  ((State.Handled.refl s).answer m a).pending

theorem State.forceEnd_pending (kind : NoticeKind) (c : CellNo) (m : MasterNo) :
    (s.forceEnd kind c m).pending = s.pending :=
  ((State.Handled.refl s).forceEnd kind c m).pending

theorem State.cancelEntries_pending (reason : Reason) (p : ParkEntry → Bool) :
    (s.cancelEntries reason p).pending = s.pending :=
  ((State.Handled.refl s).cancelEntries reason p).pending

/-! The downstream port -/

theorem State.arbitrate_pending : s.arbitrate.pending = s.pending := by
  by_cases idle : s.dn.link = .idle
  · by_cases empty : s.dn.queue = []
    · rw [State.arbitrate_empty s empty]
    · obtain ⟨pre, e, post, -, -, -, issued⟩ := s.arbitrate_spec idle empty
      rw [issued]
      rfl
  · rw [State.arbitrate_busy s idle]

theorem State.join_pending (e : QueueEntry) : (s.join e).pending = s.pending := by
  by_cases idle : s.dn.link = .idle
  · rw [State.join_idle s e idle]
    rfl
  · rw [State.join_busy s e idle]

theorem State.endFlight_pending (e : QueueEntry) (ending : Ending) : (s.endFlight e ending).pending = s.pending :=
  State.arbitrate_pending _

theorem State.endSettling_pending : s.endSettling.pending = s.pending := State.arbitrate_pending _

theorem State.doneFlight_pending (e : QueueEntry) (data : List Byte) : (s.doneFlight e data).pending = s.pending := by
  unfold State.doneFlight
  split
  · exact s.endFlight_pending _ _
  · split
    · exact s.endFlight_pending _ _
    · exact s.countHole.endFlight_pending _ _

/-! Notices and cadence -/

theorem State.createNotice_pending (n : Notice) : (s.createNotice n).pending = s.pending := by
  unfold State.createNotice
  dsimp only
  split
  · exact State.nwEvaluate_pending _
  · rfl

theorem State.noticeResult_pending (x : NoticeResult) (sent : NoticeRecord) : (s.noticeResult x sent).pending = s.pending := by
  unfold State.noticeResult
  split
  · split <;> exact State.nwEvaluate_pending _
  · rfl

theorem State.cadenceNotice_pending (r : RingNo) (m : MasterNo) (a : Option Word) (old new : CadClass) (i : BitVec 16)
    (w : Bool) : (s.cadenceNotice r m a old new i w).pending = s.pending :=
  ((State.Handled.refl s).cadenceNotice r m a old new i w).pending

theorem State.cadenceCommit_pending (c : CommitSignal) : (s.cadenceCommit c).pending = s.pending := by
  unfold State.cadenceCommit
  dsimp only
  split
  · rfl
  · exact State.cadenceNotice_pending _ _ _ _ _ _ _ _

/-! The table loader, the entry into RUNNING and the resets -/

theorem State.completeLoad_pending : s.completeLoad.pending = s.pending := by rw [State.completeLoad_eq]

theorem State.leaveLoading_pending (origin : Origin) : (s.leaveLoading origin).pending = s.pending := by
  cases origin <;> rfl

theorem State.tableReadDone_pending (l : Load) (data : List Byte) : (s.tableReadDone l data).pending = s.pending := by
  unfold State.tableReadDone
  split
  · rfl
  · unfold State.finishLoad
    split
    · exact State.completeLoad_pending _
    · next i _ => exact (State.completeLoad_pending _).trans ((s.install i).leaveLoading_pending l.origin)

theorem State.runEntryRing_pending (r : RingNo) : (s.runEntryRing r).pending = s.pending :=
  ((State.Handled.refl s).runEntryRing r).pending

theorem State.endReset_pending (cause : ResetCause) : (s.endReset cause).pending = s.pending := by
  unfold State.endReset
  dsimp only
  split <;> rfl

/-! A dropped master's request -/

theorem State.releaseWithdrawn_pending (e : QueueEntry) : (s.releaseWithdrawn e).pending = s.pending := by
  unfold State.releaseWithdrawn
  split
  · exact State.wakeRequests_pending _ _
  all_goals rfl

theorem State.withdraw_pending (m : MasterNo) : (s.withdraw m).pending = s.pending := by
  have answered : ((s.removeQueued m).answer m (.fault .dropped)).pending = s.pending := State.answer_pending _ _ _
  unfold State.withdraw
  dsimp only
  split
  · exact (State.releaseWithdrawn_pending _ _).trans answered
  · exact answered

theorem State.dropRequest_pending (m : MasterNo) : (s.dropRequest m).pending = s.pending := by
  unfold State.dropRequest
  split
  · exact s.withdraw_pending m
  · exact s.cancelEntries_pending _ _
  all_goals rfl

end PendingOperations

/-! ### The outcomes of the commands -/

/-- An outcome that leaves the queue of waiting commands as it is in `s`, or is no next state. -/
def State.LeavesPending (s : State) : Host.Outcome State Fault Refusal → Prop
  | .next t => t.pending = s.pending
  | .fault _ => True
  | .refused _ => True

section PendingCommands

variable {s : State} {o : Host.Outcome State Fault Refusal}

theorem State.leavesPending_iff : s.LeavesPending o ↔ ∀ t, o = .next t → t.pending = s.pending := by
  cases o <;> simp [State.LeavesPending]

theorem State.leavesPending_of_handled (h : ∀ {t}, o = .next t → s.Handled t) : s.LeavesPending o :=
  State.leavesPending_iff.2 fun _ e => (h e).pending

/-! The blocks' own events -/

theorem execQueueJoin_leavesPending (src : Source) : s.LeavesPending (execQueueJoin src s) := by
  unfold execQueueJoin
  dsimp only
  split
  · exact State.join_pending _ _
  · rfl

theorem execDownstreamDone_leavesPending (tag : BitVec 4) (data : List Byte) :
    s.LeavesPending (execDownstreamDone tag data s) := by
  unfold execDownstreamDone
  split
  · split
    · exact State.doneFlight_pending _ _ _
    · rfl
  · split
    · exact State.endSettling_pending _
    · rfl
  · rfl

theorem execDownstreamRetry_leavesPending (tag : BitVec 4) : s.LeavesPending (execDownstreamRetry tag s) := by
  unfold execDownstreamRetry
  split
  · split
    · split
      · rfl
      · exact State.endFlight_pending _ _ _
    · rfl
  · split
    · exact State.endSettling_pending _
    · rfl
  · rfl

theorem execDownstreamFault_leavesPending (tag : BitVec 4) : s.LeavesPending (execDownstreamFault tag s) := by
  unfold execDownstreamFault
  split
  · split
    · exact State.endFlight_pending _ _ _
    · rfl
  · split
    · exact State.endSettling_pending _
    · rfl
  · rfl

theorem execResponseTimeout_leavesPending : s.LeavesPending (execResponseTimeout s) := by
  unfold execResponseTimeout
  split
  · split
    · exact State.endFlight_pending _ _ _
    · rfl
  all_goals rfl

theorem execSettlingEnd_leavesPending : s.LeavesPending (execSettlingEnd s) := by
  unfold execSettlingEnd
  split
  · split
    · exact State.endSettling_pending _
    · rfl
  all_goals rfl

theorem execNoticeWriteResult_leavesPending : s.LeavesPending (execNoticeWriteResult s) := by
  unfold execNoticeWriteResult
  split
  · exact State.noticeResult_pending _ _ _
  · rfl

theorem execNoticeHandoff_leavesPending (i : Nat) : s.LeavesPending (execNoticeHandoff i s) := by
  unfold execNoticeHandoff
  split
  · dsimp only
    split
    · exact State.createNotice_pending _ _
    · rfl
  · rfl

theorem execCadenceCommit_leavesPending (r : RingNo) : s.LeavesPending (execCadenceCommit r s) := by
  unfold execCadenceCommit
  dsimp only
  split
  · split
    · exact State.cadenceCommit_pending _ _
    · rfl
  · rfl

theorem execWatchExpiry_leavesPending (r : RingNo) : s.LeavesPending (execWatchExpiry r s) := by
  unfold execWatchExpiry
  split
  · dsimp only
    split
    · rfl
    · exact State.cadenceNotice_pending _ _ _ _ _ _ _ _
  · rfl

theorem execStopCadence_leavesPending (r : RingNo) : s.LeavesPending (execStopCadence r s) := by
  unfold execStopCadence
  split <;> rfl

theorem execCadenceRingStart_leavesPending (r : RingNo) : s.LeavesPending (execCadenceRingStart r s) := by
  unfold execCadenceRingStart
  split <;> rfl

theorem execTick_leavesPending : s.LeavesPending (execTick s) := by
  unfold execTick
  split <;> rfl

theorem execMillisecondStep_leavesPending : s.LeavesPending (execMillisecondStep s) := by
  unfold execMillisecondStep
  split <;> rfl

theorem execTableReadResult_leavesPending : s.LeavesPending (execTableReadResult s) := by
  unfold execTableReadResult
  split
  · dsimp only
    split
    · exact State.tableReadDone_pending _ _ _
    · exact State.completeLoad_pending _
    · exact State.completeLoad_pending _
  · rfl

theorem execRunEntryRings_leavesPending : s.LeavesPending (execRunEntryRings s) := by
  unfold execRunEntryRings
  split
  · exact foldl_keeps _ State.pending State.runEntryRing_pending _ _
  · rfl

theorem execHeaderCopy_leavesPending : s.LeavesPending (execHeaderCopy s) := by
  unfold execHeaderCopy
  split <;> rfl

theorem execResetNRelease_leavesPending (st : Straps) : s.LeavesPending (execResetNRelease st s) := by
  unfold execResetNRelease
  split
  · exact State.endReset_pending _ _
  · rfl

theorem execPoll_leavesPending (n : Nat) : s.LeavesPending (execPoll s n) := by
  unfold execPoll
  split
  · rfl
  · dsimp only
    split
    · split <;> rfl
    · rfl

/-! The management commands: the link's part of a taking leaves the queue alone, so the owner's part decides. -/

variable {code : Byte} {owner : State → Reply}

theorem State.takeCommand_pending (kept : ∀ u, (owner u).state.pending = u.pending) :
    (s.begin.takeCommand code owner).pending = s.pending := by
  obtain ⟨ml, taken | taken⟩ := s.takeCommand_cases code owner
  · rw [taken]
    rfl
  · rw [taken]
    exact kept s.framed

theorem shortCommand_leavesPending (kept : ∀ u, (owner u).state.pending = u.pending) :
    s.LeavesPending (shortCommand code owner s) :=
  State.takeCommand_pending kept

theorem execCommandFrameMalformed_leavesPending (args : List Byte) :
    s.LeavesPending (execCommandFrameMalformed code args s) := by
  unfold execCommandFrameMalformed
  split
  · exact State.takeCommand_pending fun _ => rfl
  · trivial

variable (b : Byte) (u : State)

theorem ownReadWindow_pending : (ownReadWindow b u).state.pending = u.pending := by
  unfold ownReadWindow
  split <;> rfl

theorem ownReadRing_pending : (ownReadRing b u).state.pending = u.pending := by
  unfold ownReadRing
  split <;> rfl

theorem ownReadCell_pending : (ownReadCell b u).state.pending = u.pending := by
  unfold ownReadCell
  split <;> rfl

theorem ownReadMaster_pending : (ownReadMaster b u).state.pending = u.pending := by
  unfold ownReadMaster
  split <;> rfl

theorem ownWriteHeader_pending (w : Tbl Word 14) : (ownWriteHeader w u).state.pending = u.pending := by
  unfold ownWriteHeader
  repeat' split
  all_goals rfl

theorem ownWriteWindow_pending (e : WindowWords) : (ownWriteWindow b e u).state.pending = u.pending := by
  unfold ownWriteWindow
  repeat' split
  all_goals rfl

theorem ownWriteRing_pending (rec : RingWords) : (ownWriteRing b rec u).state.pending = u.pending := by
  unfold ownWriteRing
  repeat' split
  all_goals rfl

theorem ownRingStart_pending : (ownRingStart b u).state.pending = u.pending := by
  unfold ownRingStart
  split
  · rfl
  · split
    · rfl
    · split
      · rfl
      · exact State.wakeRequests_pending _ _

theorem ownRingStop_pending : (ownRingStop b u).state.pending = u.pending := by
  unfold ownRingStop
  repeat' split
  all_goals rfl

theorem ownFreeCell_pending : (ownFreeCell b u).state.pending = u.pending := by
  unfold ownFreeCell
  split
  · rfl
  · split
    · rfl
    · split
      · rfl
      · exact u.forceEnd_pending _ _ _

theorem ownSetPriority_pending (p : Byte) : (ownSetPriority b p u).state.pending = u.pending := by
  unfold ownSetPriority
  repeat' split
  all_goals rfl

theorem ownDropMaster_pending : (ownDropMaster b u).state.pending = u.pending := by
  unfold ownDropMaster
  split
  · rfl
  · split
    · rfl
    · exact State.dropRequest_pending _ _

theorem ownReopenMaster_pending : (ownReopenMaster b u).state.pending = u.pending := by
  unfold ownReopenMaster
  repeat' split
  all_goals rfl

theorem ownTakeNotice_pending : (ownTakeNotice u).state.pending = u.pending := by
  unfold ownTakeNotice
  split <;> rfl

theorem ownSetMask_pending : (ownSetMask b u).state.pending = u.pending := by
  unfold ownSetMask
  split <;> rfl

theorem ownClearStall_pending : (ownClearStall u).state.pending = u.pending := by
  unfold ownClearStall
  split
  · exact State.nwEvaluate_pending _
  all_goals rfl

theorem ownStop_pending : (ownStop u).state.pending = u.pending := by
  unfold ownStop
  split <;> rfl

theorem ownStart_pending : (ownStart u).state.pending = u.pending := by
  unfold ownStart
  split <;> rfl

theorem ownLoad_pending (addr : Word) (frame : Byte) : (ownLoad addr frame u).state.pending = u.pending := by
  unfold ownLoad
  repeat' split
  all_goals rfl

/-- A soft reset empties the blocks and not the queue of commands (R173). -/
theorem ownReset_pending (st : Straps) (frame : Byte) : (ownReset st frame u).state.pending = u.pending := by
  rw [ownReset, State.beginSoftReset_eq]
  rfl

/-- Every command leaves the queue of waiting commands as it is. -/
theorem exec_leavesPending (c : Instr) (s : State) : s.LeavesPending (exec c s) := by
  cases c with
  | upstreamRequest => exact State.leavesPending_of_handled execUpstreamRequest_handled
  | admission => exact State.leavesPending_of_handled execAdmission_handled
  | replay => exact State.leavesPending_of_handled execReplay_handled
  | queueJoin src => exact execQueueJoin_leavesPending src
  | downstreamDone tag data => exact execDownstreamDone_leavesPending tag data
  | downstreamRetry tag => exact execDownstreamRetry_leavesPending tag
  | downstreamFault tag => exact execDownstreamFault_leavesPending tag
  | responseTimeout => exact execResponseTimeout_leavesPending
  | settlingEnd => exact execSettlingEnd_leavesPending
  | passResult => exact State.leavesPending_of_handled execPassResult_handled
  | ringProducerDone => exact State.leavesPending_of_handled execRingProducerDone_handled
  | ringConsumerDone => exact State.leavesPending_of_handled execRingConsumerDone_handled
  | ringAccessFailed => exact State.leavesPending_of_handled execRingAccessFailed_handled
  | noticeWriteResult => exact execNoticeWriteResult_leavesPending
  | cadenceCommit r => exact execCadenceCommit_leavesPending r
  | watchExpiry r => exact execWatchExpiry_leavesPending r
  | tick => exact execTick_leavesPending
  | ringParkExpiry => exact State.leavesPending_of_handled execRingParkExpiry_handled
  | claimParkExpiry => exact State.leavesPending_of_handled execClaimParkExpiry_handled
  | millisecondStep => exact execMillisecondStep_leavesPending
  | leaseExpiry => exact State.leavesPending_of_handled execLeaseExpiry_handled
  | noticeHandoff i => exact execNoticeHandoff_leavesPending i
  | tableReadResult => exact execTableReadResult_leavesPending
  | runEntryRings => exact execRunEntryRings_leavesPending
  | runEntryNotices => exact State.leavesPending_of_handled execRunEntryNotices_handled
  | stopRings => exact State.leavesPending_of_handled execStopRings_handled
  | stopPool => exact State.leavesPending_of_handled execStopPool_handled
  | stopCells => exact State.leavesPending_of_handled execStopCells_handled
  | stopCadence r => exact execStopCadence_leavesPending r
  | cadenceRingStart r => exact execCadenceRingStart_leavesPending r
  | poolCancelRingStop => exact State.leavesPending_of_handled execPoolCancelRingStop_handled
  | poolCancelFreeze => exact State.leavesPending_of_handled execPoolCancelFreeze_handled
  | dropOwnerships => exact State.leavesPending_of_handled execDropOwnerships_handled
  | headerCopy => exact execHeaderCopy_leavesPending
  | resetNAssert => rfl
  | resetNRelease st => exact execResetNRelease_leavesPending st
  | commandFrameMalformed _ args => exact execCommandFrameMalformed_leavesPending args
  | poll n => exact execPoll_leavesPending n
  | status => exact shortCommand_leavesPending fun _ => rfl
  | readHeader => exact shortCommand_leavesPending fun _ => rfl
  | writeHeader w => exact shortCommand_leavesPending fun u => ownWriteHeader_pending u w
  | readWindow b => exact shortCommand_leavesPending (ownReadWindow_pending b)
  | writeWindow b e => exact shortCommand_leavesPending fun u => ownWriteWindow_pending b u e
  | readRing b => exact shortCommand_leavesPending (ownReadRing_pending b)
  | writeRing b rec => exact shortCommand_leavesPending fun u => ownWriteRing_pending b u rec
  | ringStart b => exact shortCommand_leavesPending (ownRingStart_pending b)
  | ringStop b => exact shortCommand_leavesPending (ownRingStop_pending b)
  | readCell b => exact shortCommand_leavesPending (ownReadCell_pending b)
  | freeCell b => exact shortCommand_leavesPending (ownFreeCell_pending b)
  | readMaster b => exact shortCommand_leavesPending (ownReadMaster_pending b)
  | setPriority b p => exact shortCommand_leavesPending fun u => ownSetPriority_pending b u p
  | dropMaster b => exact shortCommand_leavesPending (ownDropMaster_pending b)
  | reopenMaster b => exact shortCommand_leavesPending (ownReopenMaster_pending b)
  | readPool => exact shortCommand_leavesPending fun _ => rfl
  | takeNotice => exact shortCommand_leavesPending ownTakeNotice_pending
  | setMask mask => exact shortCommand_leavesPending (ownSetMask_pending mask)
  | clearStall => exact shortCommand_leavesPending ownClearStall_pending
  | clearLost => exact shortCommand_leavesPending fun _ => rfl
  | stop => exact shortCommand_leavesPending ownStop_pending
  | start => exact shortCommand_leavesPending ownStart_pending
  | load addr => exact State.takeCommand_pending fun u => ownLoad_pending u addr s.ml.frame
  | reset st => exact State.takeCommand_pending fun u => ownReset_pending u st s.ml.frame

end PendingCommands

end Sys2Proof.Machine

namespace Sys2Proof.Proofs

open Sys2Proof.Machine

/-- Settles O3, by what each command's outcome does to the queue. -/
theorem commandsLeaveTheQueueAlone : Obligations.CommandsLeaveTheQueueAlone :=
  fun c s => State.leavesPending_iff.1 (exec_leavesPending c s)

end Sys2Proof.Proofs
